-- ==== Sys2Proof/Word.lean ====
section
/-! DEFINITION. The fixed widths of the block's fields and words (00_scope.md R6, R7, R14; 30_encoding.md R70),
and the closed three-valued tone channel index (10_state.md R20). -/

namespace Sys2Proof

/-- A tone divider, "10-bit unsigned divider (0–1023)" (R6, R21). -/
abbrev Freq := BitVec 10

/-- A 4-bit field or data nibble: attenuations, noise type, `d` of a latch/data byte (R7, R76). -/
abbrev Nibble := BitVec 4

/-- The high six divider bits of a data-only byte (R77). -/
abbrev High6 := BitVec 6

/-- "a single unsigned byte as it would appear on the chip's data bus" (00_scope.md glossary, R57). -/
abbrev RawWrite := BitVec 8

/-- A command word on the input command port (R70). -/
abbrev CommandWord := BitVec 35

/-- `w[31:0]`, the payload of a command word (R70). -/
abbrev Payload := BitVec 32

/-- The three tone channels, numbered 1, 2, 3; the noise channel is not one (R5, R20). -/
inductive ToneChannel where
  | t1
  | t2
  | t3
deriving DecidableEq, Repr

/-- The channel's number as the spec writes it: 1, 2 or 3 (R5). -/
def ToneChannel.number : ToneChannel → Nat
  | .t1 => 1
  | .t2 => 2
  | .t3 => 3

end Sys2Proof
end

