-- ==== Sys2Proof/Config.lean ====
section
/-! DEFINITION. The implementation parameters of 00_scope.md section 3, and the one the spec leaves OPEN:
`CLOCK_HZ`, an opaque constant in its stated range (assumption log 1). -/

namespace Sys2Proof.Config

/-- `PRESCALE = 32` (R8). -/
def prescale : Nat := 32

/-- `CONCERT_HZ = 440`, note number 0 (R9). -/
def concertHz : Nat := 440

/-- `SILENT = 15`: exactly this attenuation is inaudible (R11). -/
def silent : Nibble := 15#4

/-- The duration WAIT735 names; no meaning reads it (R13, R173). -/
def wait735Samples : Nat := 735

/-- The duration WAIT882 names; no meaning reads it (R13, R173). -/
def wait882Samples : Nat := 882

/-- Least `CLOCK_HZ` (R10, 92_eei_decisions.md D5). -/
def clockMin : Nat := 246400

/-- Greatest `CLOCK_HZ` (R10, 92_eei_decisions.md D5). -/
def clockMax : Nat := 22235472

/-- Which of the 21989073 clocks of R10's range the machine has: no body, so nothing can evaluate it and every
claim about the machine holds at every clock of the range (assumption log 1). -/
opaque clockChoice : Fin 21989073

/-- `CLOCK_HZ`, the PSG's input clock in hertz: `clockMin + clockChoice`, any integer of the range and no other (R10, D5). -/
def clockHz : Nat := clockMin + clockChoice.val

/-- The range of R10. -/
abbrev ClockInRange (clock : Nat) : Prop := clockMin ≤ clock ∧ clock ≤ clockMax

end Sys2Proof.Config
end

