-- ==== Sys2Proof/Syntax.lean ====
section
/-! DEFINITION. The block's commands, one constructor per row of spec/opcode_table.json, in the table's order.
Each carries the operands 30_encoding.md R83 gives it and nothing else: ignored bits of a command word are
dropped by the decoder. -/

namespace Sys2Proof

inductive Instr where
  /-- TLO1: tone 1 frequency-low latch (R103). -/
  | tlo1 (d : Nibble)
  /-- TATT1: tone 1 attenuation (R104). -/
  | tatt1 (d : Nibble)
  /-- TLO2: tone 2 frequency-low latch (R105). -/
  | tlo2 (d : Nibble)
  /-- TATT2: tone 2 attenuation (R106). -/
  | tatt2 (d : Nibble)
  /-- TLO3: tone 3 frequency-low latch (R107). -/
  | tlo3 (d : Nibble)
  /-- TATT3: tone 3 attenuation (R108). -/
  | tatt3 (d : Nibble)
  /-- NTYPE: noise type (R109). -/
  | ntype (d : Nibble)
  /-- NATT: noise attenuation (R110). -/
  | natt (d : Nibble)
  /-- DATA: the high six divider bits of the latched tone channel (R111). -/
  | data (h : High6)
  /-- WAIT: a tick; `n` is the sample count (R73, R170). -/
  | wait (n : Payload)
  /-- WAIT735: the fixed one-frame tick of 735 samples (R171). -/
  | wait735
  /-- WAIT882: the fixed one-frame tick of 882 samples (R172). -/
  | wait882
  /-- OTHER: any other command kind, ignored (R174). -/
  | other
deriving DecidableEq, Repr

end Sys2Proof
end

