-- ==== Sys2Proof/WellFormed.lean ====
section
/-! DEFINITION. Well-formedness. An `Instr` is well-formed by its types: every operand value of every width is legal
(30_encoding.md R80), so there is no check to make on one. What can be ill-formed is what stands outside the
block's widths: a number offered as a 35-bit command word (R70), and a line of the assembler syntax of R84 or a
pseudo-instruction of R85, whose operands are numbers with a stated range. -/

namespace Sys2Proof

/-- A number is a command word exactly if it fits 35 bits (R70). -/
abbrev isCommandWord (w : Nat) : Bool := w < 2 ^ 35

/-- One line of the assembler syntax of R84, its operands the numbers as written. -/
inductive AsmLine where
  | tlo (c : ToneChannel) (d : Nat)
  | tatt (c : ToneChannel) (d : Nat)
  | ntype (d : Nat)
  | natt (d : Nat)
  | data (h : Nat)
  /-- `WR b`: a register write of the raw byte `b`. -/
  | wr (b : Nat)
  | wait (n : Nat)
  | wait735
  | wait882
  /-- `OTHER k, p`: kind `k` with payload `p`. -/
  | other (k p : Nat)
deriving DecidableEq, Repr

/-- The operand ranges of R84. -/
def AsmLine.wellFormed : AsmLine → Bool
  | .tlo _ d | .tatt _ d | .ntype d | .natt d => d ≤ 15
  | .data h => h ≤ 63
  | .wr b => b ≤ 255
  | .wait n => n < 2 ^ 32
  | .wait735 | .wait882 => true
  | .other k p => 4 ≤ k && k ≤ 7 && p < 2 ^ 32

/-- The pseudo-instructions of R85. -/
inductive PseudoLine where
  | tone (c : ToneChannel) (f : Nat)
  | mute (c : ToneChannel)
  | loud (c : ToneChannel)
  | nop
  | frame60
  | frame50
deriving DecidableEq, Repr

/-- `TONE c, f` has `f` in 0..1023; the others have no number (R85). -/
def PseudoLine.wellFormed : PseudoLine → Bool
  | .tone _ f => f ≤ 1023
  | .mute _ | .loud _ | .nop | .frame60 | .frame50 => true

end Sys2Proof
end

