-- ==== Sys2Proof/Decode.lean ====
section
/-! DEFINITION. The decoder of 30_encoding.md R83, total on the 2^35 command words (R80); after it the encoder, the
opcode table as rows of mask and match, the assembler and disassembler of R84 and the pseudo-instructions of R85. -/

namespace Sys2Proof

/-! ### Fields of a command word and of a byte (R70, R76, R77) -/

/-- `w[34:32]`, the command kind (R70). -/
def CommandWord.kind (w : CommandWord) : BitVec 3 := w.extractLsb 34 32

/-- `w[31:0]`, the payload (R70). -/
def CommandWord.payload (w : CommandWord) : Payload := w.extractLsb 31 0

/-- `w[7:0]`, the RawWrite byte of a REG_WRITE (R72). -/
def CommandWord.byte (w : CommandWord) : RawWrite := w.extractLsb 7 0

/-- `b[7] = 1` selects the latch/data format, `b[7] = 0` the data-only format (R75). -/
def RawWrite.isLatch (b : RawWrite) : Bool := b.getLsbD 7

/-- `b[6:4]`, the register code of a latch/data byte (R76). -/
def RawWrite.reg (b : RawWrite) : BitVec 3 := b.extractLsb 6 4

/-- `b[3:0]`, the data nibble of a latch/data byte (R76). -/
def RawWrite.nibble (b : RawWrite) : Nibble := b.extractLsb 3 0

/-- `b[5:0]`, the high six divider bits of a data-only byte; bit 6 is ignored (R77, assumption log 8). -/
def RawWrite.high6 (b : RawWrite) : High6 := b.extractLsb 5 0

/-! ### Decoding -/

/-- The REG_WRITE half of R83: one of nine forms for every byte (R75 to R78). -/
def decodeByte (b : RawWrite) : Instr :=
  if RawWrite.isLatch b then
    match RawWrite.reg b with
    | 0#3 => .tlo1 (RawWrite.nibble b)
    | 1#3 => .tatt1 (RawWrite.nibble b)
    | 2#3 => .tlo2 (RawWrite.nibble b)
    | 3#3 => .tatt2 (RawWrite.nibble b)
    | 4#3 => .tlo3 (RawWrite.nibble b)
    | 5#3 => .tatt3 (RawWrite.nibble b)
    | 6#3 => .ntype (RawWrite.nibble b)
    | 7#3 => .natt (RawWrite.nibble b)
  else .data (RawWrite.high6 b)

/-- The decode function of R83: every 35-bit word has a meaning. -/
def decode (w : CommandWord) : Instr :=
  match CommandWord.kind w with
  | 0#3 => decodeByte (CommandWord.byte w)
  | 1#3 => .wait (CommandWord.payload w)
  | 2#3 => .wait735
  | 3#3 => .wait882
  | 4#3 | 5#3 | 6#3 | 7#3 => .other

/-- Why a number is not a command. -/
inductive DecodeError where
  /-- The number does not fit the 35 bits of the port (R70); no word of the port is rejected (R80). -/
  | notACommandWord
deriving DecidableEq, Repr

/-- The command word a number spells, rejected by name when it does not fit 35 bits (R70, assumption log 17). -/
def commandOfNat (w : Nat) : Except DecodeError CommandWord :=
  if isCommandWord w then .ok (BitVec.ofNat 35 w) else .error .notACommandWord

/-- The instruction a number decodes to. -/
def decodeNat (w : Nat) : Except DecodeError Instr := (commandOfNat w).map decode

/-- The host's reading of one row's word: a command is one parallel word of the port, so the table's bit numbers are
the word's own and the number of bits given adds nothing (bits above them are zero). -/
def decodeTableWord (_nbits w : Nat) : Option Instr :=
  match decodeNat w with
  | .ok i => some i
  | .error _ => none

/-! ### Encoding -/

/-- A latch/data byte, format L (R76). -/
def latchByte (reg : BitVec 3) (d : Nibble) : RawWrite := 1#1 ++ reg ++ d

/-- A data-only byte, format D, with bit 6 clear (R77). -/
def dataByte (h : High6) : RawWrite := 0#2 ++ h

/-- A command word from its kind and its payload (R70). -/
def commandWord (kind : BitVec 3) (payload : Payload) : CommandWord := kind ++ payload

/-- A REG_WRITE word, its ignored bits zero (R71, R72). -/
def regWriteWord (b : RawWrite) : CommandWord := commandWord 0#3 (0#24 ++ b)

/-- The word of an instruction, every ignored bit zero and OTHER as `OTHER 4, 0` (R71, R78, R84). -/
def encode : Instr → CommandWord
  | .tlo1 d => regWriteWord (latchByte 0#3 d)
  | .tatt1 d => regWriteWord (latchByte 1#3 d)
  | .tlo2 d => regWriteWord (latchByte 2#3 d)
  | .tatt2 d => regWriteWord (latchByte 3#3 d)
  | .tlo3 d => regWriteWord (latchByte 4#3 d)
  | .tatt3 d => regWriteWord (latchByte 5#3 d)
  | .ntype d => regWriteWord (latchByte 6#3 d)
  | .natt d => regWriteWord (latchByte 7#3 d)
  | .data h => regWriteWord (dataByte h)
  | .wait n => commandWord 1#3 n
  | .wait735 => commandWord 2#3 0#32
  | .wait882 => commandWord 3#3 0#32
  | .other => commandWord 4#3 0#32

/-! ### The opcode table (R71, R78; spec/opcode_table.json) -/

/-- One row of the table: a word belongs to it when the bits of `mask` are those of `match`. -/
structure OpcodeRow where
  mnemonic : String
  mask : CommandWord
  pattern : CommandWord
deriving DecidableEq, Repr

/-- Whether the word has the row's fixed bits. -/
def OpcodeRow.holds (r : OpcodeRow) (w : CommandWord) : Bool := w &&& r.mask == r.pattern

/-- The rows, with the masks and matches of spec/opcode_table.json. -/
def opcodeTable : List OpcodeRow :=
  [⟨"TLO1", 0x7000000F0#35, 0x000000080#35⟩,
   ⟨"TATT1", 0x7000000F0#35, 0x000000090#35⟩,
   ⟨"TLO2", 0x7000000F0#35, 0x0000000A0#35⟩,
   ⟨"TATT2", 0x7000000F0#35, 0x0000000B0#35⟩,
   ⟨"TLO3", 0x7000000F0#35, 0x0000000C0#35⟩,
   ⟨"TATT3", 0x7000000F0#35, 0x0000000D0#35⟩,
   ⟨"NTYPE", 0x7000000F0#35, 0x0000000E0#35⟩,
   ⟨"NATT", 0x7000000F0#35, 0x0000000F0#35⟩,
   ⟨"DATA", 0x700000080#35, 0x000000000#35⟩,
   ⟨"WAIT", 0x700000000#35, 0x100000000#35⟩,
   ⟨"WAIT735", 0x700000000#35, 0x200000000#35⟩,
   ⟨"WAIT882", 0x700000000#35, 0x300000000#35⟩,
   ⟨"OTHER", 0x400000000#35, 0x400000000#35⟩]

/-- An instruction's mnemonic in the table. -/
def Instr.mnemonic : Instr → String
  | .tlo1 _ => "TLO1"
  | .tatt1 _ => "TATT1"
  | .tlo2 _ => "TLO2"
  | .tatt2 _ => "TATT2"
  | .tlo3 _ => "TLO3"
  | .tatt3 _ => "TATT3"
  | .ntype _ => "NTYPE"
  | .natt _ => "NATT"
  | .data _ => "DATA"
  | .wait _ => "WAIT"
  | .wait735 => "WAIT735"
  | .wait882 => "WAIT882"
  | .other => "OTHER"

/-- The command is a tick: WAIT, WAIT735 or WAIT882 (00_scope.md glossary, R170 to R172). -/
def Instr.isTick : Instr → Bool
  | .wait _ | .wait735 | .wait882 => true
  | .tlo1 _ | .tatt1 _ | .tlo2 _ | .tatt2 _ | .tlo3 _ | .tatt3 _ | .ntype _ | .natt _ | .data _ | .other => false

/-- The command is a REG_WRITE (R71). -/
def Instr.isRegWrite : Instr → Bool
  | .tlo1 _ | .tatt1 _ | .tlo2 _ | .tatt2 _ | .tlo3 _ | .tatt3 _ | .ntype _ | .natt _ | .data _ => true
  | .wait _ | .wait735 | .wait882 | .other => false

/-- The sample count a tick command names (R13, R73); no meaning reads it (R173, assumption log 11). -/
def Instr.samples : Instr → Option Nat
  | .wait n => some n.toNat
  | .wait735 => some Config.wait735Samples
  | .wait882 => some Config.wait882Samples
  | .tlo1 _ | .tatt1 _ | .tlo2 _ | .tatt2 _ | .tlo3 _ | .tatt3 _ | .ntype _ | .natt _ | .data _ | .other => none

/-! ### Assembler syntax (R84) and pseudo-instructions (R85) -/

/-- The register code of a tone channel's frequency-low register, `2*(c-1)` (R78). -/
def freqLowReg : ToneChannel → BitVec 3
  | .t1 => 0#3
  | .t2 => 2#3
  | .t3 => 4#3

/-- The register code of a tone channel's attenuation register, `2*(c-1) + 1` (R78). -/
def attReg : ToneChannel → BitVec 3
  | .t1 => 1#3
  | .t2 => 3#3
  | .t3 => 5#3

/-- The command word of a line, R84's last column. -/
def assemble : AsmLine → CommandWord
  | .tlo c d => regWriteWord (latchByte (freqLowReg c) (BitVec.ofNat 4 d))
  | .tatt c d => regWriteWord (latchByte (attReg c) (BitVec.ofNat 4 d))
  | .ntype d => regWriteWord (latchByte 6#3 (BitVec.ofNat 4 d))
  | .natt d => regWriteWord (latchByte 7#3 (BitVec.ofNat 4 d))
  | .data h => regWriteWord (dataByte (BitVec.ofNat 6 h))
  | .wr b => regWriteWord (BitVec.ofNat 8 b)
  | .wait n => commandWord 1#3 (BitVec.ofNat 32 n)
  | .wait735 => commandWord 2#3 0#32
  | .wait882 => commandWord 3#3 0#32
  | .other k p => commandWord (BitVec.ofNat 3 k) (BitVec.ofNat 32 p)

/-- The line a disassembler prints: `WR b` only for a data-only byte with bit 6 set (R84). -/
def disassemble (w : CommandWord) : AsmLine :=
  match decode w with
  | .tlo1 d => .tlo .t1 d.toNat
  | .tatt1 d => .tatt .t1 d.toNat
  | .tlo2 d => .tlo .t2 d.toNat
  | .tatt2 d => .tatt .t2 d.toNat
  | .tlo3 d => .tlo .t3 d.toNat
  | .tatt3 d => .tatt .t3 d.toNat
  | .ntype d => .ntype d.toNat
  | .natt d => .natt d.toNat
  | .data h => if (CommandWord.byte w).getLsbD 6 then .wr (CommandWord.byte w).toNat else .data h.toNat
  | .wait n => .wait n.toNat
  | .wait735 => .wait735
  | .wait882 => .wait882
  | .other => .other (CommandWord.kind w).toNat (CommandWord.payload w).toNat

/-- The expansion of a pseudo-instruction (R85). -/
def PseudoLine.expand : PseudoLine → List AsmLine
  | .tone c f => [.tlo c (f % 16), .data (f / 16)]
  | .mute c => [.tatt c 15]
  | .loud c => [.tatt c 0]
  | .nop => [.other 4 0]
  | .frame60 => [.wait735]
  | .frame50 => [.wait882]

end Sys2Proof
end

