-- ==== Sys2Proof/Machine/State.lean ====
section
/-! DEFINITION. The block's state as plain data: the two snapshots CUR and LAST (10_state.md R25, R30), the event types
(R33, R34), the two ports, the reset state (R39 to R44, 70_reset_and_hazards.md R230, R231), and the reasons a
step can stop. -/

namespace Sys2Proof.Machine

/-- One tone channel's registers (R21, R22, R25). -/
structure Tone where
  freq : Freq
  att : Nibble
deriving DecidableEq, Repr

/-- The noise channel's registers (R23, R24, R25). -/
structure Noise where
  type : Nibble
  att : Nibble
deriving DecidableEq, Repr

/-- The ChipState record of R25: 50 bits of numeric state and the three-valued latch. -/
structure ChipState where
  tone1 : Tone
  tone2 : Tone
  tone3 : Tone
  noise : Noise
  /-- "which tone channel (1, 2, or 3) is the implicit target" of the next data-only byte; never none (R26). -/
  latch : ToneChannel
deriving DecidableEq, Repr

/-- One slot of an event bundle (R34). -/
inductive Slot where
  | noEvent
  /-- The payload is `note_of`'s result: `none` is "no pitch" (R19, R33). -/
  | noteOn (pitch : Option Int)
  | noteOff
deriving DecidableEq, Repr

/-- The output of one tick, one slot per tone channel (R34, R183). -/
structure EventBundle where
  slot1 : Slot
  slot2 : Slot
  slot3 : Slot
deriving DecidableEq, Repr

/-- The kind of a NoteEvent (R33). -/
inductive EventKind where
  | noteOn (pitch : Option Int)
  | noteOff
deriving DecidableEq, Repr

/-- A NoteEvent: a non-empty slot together with its channel (R33, R34). -/
structure NoteEvent where
  channel : ToneChannel
  kind : EventKind
deriving DecidableEq, Repr

/-- One slot as the event output port carries it (R148). -/
inductive PortSlot where
  | noEvent
  | noteOn (pitchValid : Bool) (note : BitVec 8)
  | noteOff
deriving DecidableEq, Repr

/-- The event output port: the tick strobe and the three encoded slots (R148, R183). -/
structure EventPort where
  strobe : Bool
  slot1 : PortSlot
  slot2 : PortSlot
  slot3 : PortSlot
deriving DecidableEq, Repr

/-- What the observation port shows (R32). -/
structure Observation where
  cur : ChipState
  last : ChipState
deriving DecidableEq, Repr

/-- What the outside world delivers at a command boundary: one command word, or a reset (R4, R232; log 2, log 3). -/
inductive PortInput where
  | command (w : CommandWord)
  | reset
deriving DecidableEq, Repr

/-- The machine. `cur` and `last` are the block's whole mutable state (R30); `input` and `output` are its ports. -/
structure State where
  /-- What the command port has yet to deliver, first to come first: the outside world's stream, which the block
  itself neither stores nor writes (R66; log 2). -/
  input : List PortInput
  /-- CUR, the state into which register writes are folded (R30). -/
  cur : ChipState
  /-- LAST, the snapshot taken at the previous tick (R30). -/
  last : ChipState
  /-- The event output of the step just taken: a bundle exactly when that step was a tick, since the block stores no
  event after the tick that produced it (R33, R183; log 5). -/
  output : Option EventBundle
deriving DecidableEq, Repr

/-- Why the machine stops. -/
inductive Fault where
  /-- Raised by `step` alone, when the command stream is exhausted: "the core terminates" (R186). No instruction
  raises it. Safe: no claim is made of a step the spec does not give (R4; log 4). -/
  | streamExhausted
deriving DecidableEq, Repr

/-- Why an instruction has no meaning. -/
inductive Refusal where
  /-- Raised by an arm of `exec` that has no meaning yet; no arm of this model raises it. Safe: it stops the run. -/
  | notModelled (mnemonic : String)
deriving DecidableEq, Repr

/-- A tone channel after reset: divider 0 (R39), attenuation 0 (R40). -/
def Tone.reset : Tone := ⟨0#10, 0#4⟩

/-- The noise channel after reset (R41, R42). -/
def Noise.reset : Noise := ⟨0#4, 0#4⟩

/-- RESET_STATE (R39 to R43). -/
def ChipState.reset : ChipState := ⟨Tone.reset, Tone.reset, Tone.reset, Noise.reset, .t1⟩

/-- The machine right after reset: CUR = LAST = RESET_STATE (R44, R230), nothing pending on the event port (R231),
no command delivered yet (log 2, log 20). -/
def State.reset : State := ⟨[], ChipState.reset, ChipState.reset, none⟩

end Sys2Proof.Machine
end

