-- ==== Sys2Proof/Machine/Flags.lean ====
section
/-! DEFINITION. The block has no status flags, condition codes or predicates that a command sets or reads (10_state.md
R35), so no flag computation stands here. What the detector tests are these conditions on two snapshots. -/

namespace Sys2Proof.Machine

/-- A channel is audible exactly when its attenuation is not 15 (00_scope.md R11, 42_note_detector.md R185, R187). -/
def Tone.audible (t : Tone) : Bool := t.att != Config.silent

/-- The condition of rule 1: audible now, and silent before or at another divider (R176). -/
def startsNote (last cur : Tone) : Bool := cur.audible && (!last.audible || last.freq != cur.freq)

/-- The condition of rule 2: silent now and audible before (R177). -/
def endsNote (last cur : Tone) : Bool := !cur.audible && last.audible

end Sys2Proof.Machine
end

