-- ==== Sys2Proof/Machine/Operands.lean ====
section
/-! DEFINITION. Operand assembly (30_encoding.md R79, 20_memory.md R53): the two slices of a tone divider. The 4-bit
operands are whole field values and need no assembly. -/

namespace Sys2Proof.Machine

/-- `freq[9:4] ++ d`: a latch/data byte replaces the low four bits (R53, R79). -/
def freqWithLow (f : Freq) (d : Nibble) : Freq := f.extractLsb 9 4 ++ d

/-- `h ++ freq[3:0]`: a data-only byte replaces the high six bits (R53, R79). -/
def freqWithHigh (f : Freq) (h : High6) : Freq := h ++ f.extractLsb 3 0

end Sys2Proof.Machine
end

