-- ==== Sys2Proof/Machine/Pitch.lean ====
section
/-! DEFINITION. The pitch function of 41_pitch.md, by the exact integer method of R144, at any clock. -/

namespace Sys2Proof.Machine

/-- `floor(log2(p / q))` for positive `p` and `q`: the position of the leading bit of the rational `p / q`, negative
when `p < q` (R144). -/
def floorLog2Ratio (p q : Nat) : Int :=
  if q ≤ p then ((p / q).log2 : Int) else -((((q - 1) / p).log2 : Int) + 1)

/-- `14080 * d`, the divisor of R140's second line: `32 * 440 = 14080`. -/
def concertDivisor (d : Nat) : Nat := Config.prescale * Config.concertHz * d

/-- `n = floor((L + 1) / 2)` with `L = floor(log2(x^24))` and `x = clock / (14080 d)` (R144). -/
def noteNumber (clock d : Nat) : Int := (floorLog2Ratio (clock ^ 24) (concertDivisor d ^ 24) + 1) / 2

/-- `note_of(d)` at a clock: `none` for divider 0, never a fault (R140, R141; log 15). -/
def noteOf (clock d : Nat) : Option Int := if d = 0 then none else some (noteNumber clock d)

end Sys2Proof.Machine
end

