-- ==== Sys2Proof/Machine/Ops.lean ====
section
/-! DEFINITION. The named operations over the block's registers: access to ChipState (00_scope.md R17), the five kinds of
register write, the engine `apply` (40_register_engine.md R100, R101), change detection and the tick
(42_note_detector.md R175 to R178), the ports and reset. The block takes no exception (60_exceptions.md R210,
R214), so there is no operation for one. -/

namespace Sys2Proof.Machine

/-! ### Access to ChipState (R17) -/

/-- `S.tone[c]` (R17). -/
def ChipState.tone (S : ChipState) : ToneChannel → Tone
  | .t1 => S.tone1
  | .t2 => S.tone2
  | .t3 => S.tone3

/-- `S with { tone[c] := t }` (R17). -/
def ChipState.withTone (S : ChipState) (c : ToneChannel) (t : Tone) : ChipState :=
  match c with
  | .t1 => { S with tone1 := t }
  | .t2 => { S with tone2 := t }
  | .t3 => { S with tone3 := t }

/-- The slot of a tone channel (R34). -/
def EventBundle.slot (b : EventBundle) : ToneChannel → Slot
  | .t1 => b.slot1
  | .t2 => b.slot2
  | .t3 => b.slot3

/-! ### The register writes (R103 to R111) -/

/-- TLO forms: the low four divider bits of `c`, and the latch (R103, R105, R107). -/
def ChipState.writeFreqLow (S : ChipState) (c : ToneChannel) (d : Nibble) : ChipState :=
  { S.withTone c { S.tone c with freq := freqWithLow (S.tone c).freq d } with latch := c }

/-- TATT forms: the attenuation of `c`; the latch is unchanged (R104, R106, R108). -/
def ChipState.writeAtt (S : ChipState) (c : ToneChannel) (d : Nibble) : ChipState :=
  S.withTone c { S.tone c with att := d }

/-- NTYPE: all four bits of the noise type; the latch is unchanged (R109; log 9). -/
def ChipState.writeNoiseType (S : ChipState) (d : Nibble) : ChipState :=
  { S with noise := { S.noise with type := d } }

/-- NATT: the noise attenuation; the latch is unchanged (R110; log 9). -/
def ChipState.writeNoiseAtt (S : ChipState) (d : Nibble) : ChipState :=
  { S with noise := { S.noise with att := d } }

/-- DATA: the high six divider bits of the latched channel; the latch is unchanged (R111). -/
def ChipState.writeFreqHigh (S : ChipState) (h : High6) : ChipState :=
  S.withTone S.latch { S.tone S.latch with freq := freqWithHigh (S.tone S.latch).freq h }

/-- `apply : ChipState -> RawWrite -> ChipState`, total over the 256 byte values (R100, R101). -/
def ChipState.apply (S : ChipState) (b : RawWrite) : ChipState :=
  if RawWrite.isLatch b then
    match RawWrite.reg b with
    | 0#3 => S.writeFreqLow .t1 (RawWrite.nibble b)
    | 1#3 => S.writeAtt .t1 (RawWrite.nibble b)
    | 2#3 => S.writeFreqLow .t2 (RawWrite.nibble b)
    | 3#3 => S.writeAtt .t2 (RawWrite.nibble b)
    | 4#3 => S.writeFreqLow .t3 (RawWrite.nibble b)
    | 5#3 => S.writeAtt .t3 (RawWrite.nibble b)
    | 6#3 => S.writeNoiseType (RawWrite.nibble b)
    | 7#3 => S.writeNoiseAtt (RawWrite.nibble b)
  else S.writeFreqHigh (RawWrite.high6 b)

/-! ### Change detection (R176 to R178) -/

/-- `detect` for one channel's registers in LAST and CUR, the rules tried in their order (R176 to R179, R184; log 16). -/
def detectTone (clock : Nat) (last cur : Tone) : Slot :=
  if startsNote last cur then .noteOn (noteOf clock cur.freq.toNat)
  else if endsNote last cur then .noteOff
  else .noEvent

/-- The bundle of a tick: `detect(LAST, CUR, c)` for each tone channel, and for no other (R175, R180, R181). -/
def detectAll (clock : Nat) (last cur : ChipState) : EventBundle :=
  ⟨detectTone clock last.tone1 cur.tone1, detectTone clock last.tone2 cur.tone2, detectTone clock last.tone3 cur.tone3⟩

/-! ### Steps of the machine -/

/-- The REG_WRITE step: CUR is replaced, LAST is unchanged, no event is emitted (R102; log 5). -/
def State.writeCur (s : State) (S : ChipState) : State := { s with cur := S, output := none }

/-- `tick()`: the bundle is output, then `LAST <- CUR`; CUR is unchanged (R175). -/
def State.tick (clock : Nat) (s : State) : State :=
  { s with last := s.cur, output := some (detectAll clock s.last s.cur) }

/-- A command that does nothing: CUR and LAST unchanged, no event (R174; log 5). -/
def State.quiet (s : State) : State := { s with output := none }

/-- Reset: CUR and LAST take RESET_STATE, no bundle is emitted and nothing is pending (R230, R231); what the command
port has yet to deliver stays (R232; log 3). -/
def State.takeReset (s : State) : State :=
  { s with cur := ChipState.reset, last := ChipState.reset, output := none }

/-- The next delivery of the command port and the machine with it consumed (R4, R62). -/
def State.nextInput (s : State) : Option (PortInput × State) :=
  match s.input with
  | [] => none
  | p :: rest => some (p, { s with input := rest })

/-- The machine with a number's command word next on the command port; a number that is no command word is not
delivered (R70; log 2, log 17). -/
def State.deliver (s : State) (w : Nat) : State :=
  match commandOfNat w with
  | .ok cw => { s with input := .command cw :: s.input }
  | .error _ => s

/-- The observation port: CUR and LAST, without side effect (R32; log 18). -/
def State.observe (s : State) : Observation := ⟨s.cur, s.last⟩

end Sys2Proof.Machine
end

