-- ==== Sys2Proof/Machine/RegisterEngine.lean ====
section
/-! DEFINITION. The meanings of the REG_WRITE commands (40_register_engine.md R102 to R111). -/

namespace Sys2Proof.Machine

/-- TLO1 (R103). -/
def execTlo1 (d : Nibble) (s : State) : Host.Outcome State Fault Refusal :=
  .next (s.writeCur (s.cur.writeFreqLow .t1 d))

/-- TATT1 (R104). -/
def execTatt1 (d : Nibble) (s : State) : Host.Outcome State Fault Refusal :=
  .next (s.writeCur (s.cur.writeAtt .t1 d))

/-- TLO2 (R105). -/
def execTlo2 (d : Nibble) (s : State) : Host.Outcome State Fault Refusal :=
  .next (s.writeCur (s.cur.writeFreqLow .t2 d))

/-- TATT2 (R106). -/
def execTatt2 (d : Nibble) (s : State) : Host.Outcome State Fault Refusal :=
  .next (s.writeCur (s.cur.writeAtt .t2 d))

/-- TLO3 (R107). -/
def execTlo3 (d : Nibble) (s : State) : Host.Outcome State Fault Refusal :=
  .next (s.writeCur (s.cur.writeFreqLow .t3 d))

/-- TATT3 (R108). -/
def execTatt3 (d : Nibble) (s : State) : Host.Outcome State Fault Refusal :=
  .next (s.writeCur (s.cur.writeAtt .t3 d))

/-- NTYPE (R109). -/
def execNtype (d : Nibble) (s : State) : Host.Outcome State Fault Refusal :=
  .next (s.writeCur (s.cur.writeNoiseType d))

/-- NATT (R110). -/
def execNatt (d : Nibble) (s : State) : Host.Outcome State Fault Refusal :=
  .next (s.writeCur (s.cur.writeNoiseAtt d))

/-- DATA (R111). -/
def execData (h : High6) (s : State) : Host.Outcome State Fault Refusal :=
  .next (s.writeCur (s.cur.writeFreqHigh h))

end Sys2Proof.Machine
end

