-- ==== Sys2Proof/Machine/TickCommands.lean ====
section
/-! DEFINITION. The meanings of the commands that are not register writes (42_note_detector.md R170 to R175). -/

namespace Sys2Proof.Machine

/-- WAIT: a tick whatever `n`, which no rule reads (R170, R173; log 11). -/
def execWait (_n : Payload) (s : State) : Host.Outcome State Fault Refusal := .next (s.tick Config.clockHz)

/-- WAIT735: a tick (R171). -/
def execWait735 (s : State) : Host.Outcome State Fault Refusal := .next (s.tick Config.clockHz)

/-- WAIT882: a tick (R172). -/
def execWait882 (s : State) : Host.Outcome State Fault Refusal := .next (s.tick Config.clockHz)

/-- OTHER: ignored, and not a tick (R174). -/
def execOther (s : State) : Host.Outcome State Fault Refusal := .next s.quiet

end Sys2Proof.Machine
end

