-- ==== Sys2Proof/Machine/Dispatch.lean ====
section
/-! DEFINITION. One arm per command of spec/opcode_table.json, each one call of its meaning. -/

namespace Sys2Proof.Machine

def exec (i : Instr) (s : State) : Host.Outcome State Fault Refusal :=
  match i with
  | .tlo1 d => Sys2Proof.Machine.execTlo1 d s
  | .tatt1 d => Sys2Proof.Machine.execTatt1 d s
  | .tlo2 d => Sys2Proof.Machine.execTlo2 d s
  | .tatt2 d => Sys2Proof.Machine.execTatt2 d s
  | .tlo3 d => Sys2Proof.Machine.execTlo3 d s
  | .tatt3 d => Sys2Proof.Machine.execTatt3 d s
  | .ntype d => Sys2Proof.Machine.execNtype d s
  | .natt d => Sys2Proof.Machine.execNatt d s
  | .data h => Sys2Proof.Machine.execData h s
  | .wait n => Sys2Proof.Machine.execWait n s
  | .wait735 => Sys2Proof.Machine.execWait735 s
  | .wait882 => Sys2Proof.Machine.execWait882 s
  | .other => Sys2Proof.Machine.execOther s

end Sys2Proof.Machine
end

