-- ==== Sys2Proof/Machine/Step.lean ====
section
/-! DEFINITION. One step: the next delivery of the command port is one command, which is decoded and run, or one reset
(00_scope.md R4, 20_memory.md R62); where nothing is left the block terminates (42_note_detector.md R186). -/

namespace Sys2Proof.Machine

def step (s : State) : Host.Outcome State Fault Refusal :=
  match s.nextInput with
  | none => .fault .streamExhausted
  | some (.reset, t) => .next t.takeReset
  | some (.command w, t) => exec (decode w) t

/-- The state with a table word next on the command port, ahead of whatever else is to come (log 2). The port takes one
parallel word, so the number of bits given adds nothing. -/
def State.withFetchWord (s : State) (_nbits w : Nat) : State := s.deliver w

end Sys2Proof.Machine
end

