-- ==== Sys2Proof/Machine/EventPort.lean ====
section
/-! DEFINITION. The event output port as the outside sees it: the encoding of a slot (41_pitch.md R148), the strobe and the
serialized stream (42_note_detector.md R183). Computed from the state, stored nowhere. -/

namespace Sys2Proof.Machine

/-- A NoteOn's `pitch_valid` and `note`: two's complement for a note, 0 and 0 for no pitch (R148; log 13). -/
def encodePitch : Option Int → PortSlot
  | some n => .noteOn true (BitVec.ofInt 8 n)
  | none => .noteOn false 0#8

/-- A slot as the port carries it (R148). -/
def encodeSlot : Slot → PortSlot
  | .noEvent => .noEvent
  | .noteOn p => encodePitch p
  | .noteOff => .noteOff

/-- The event output port after a step: the strobe is up exactly when the step was a tick (R183). -/
def State.eventPort (s : State) : EventPort :=
  match s.output with
  | some b => ⟨true, encodeSlot b.slot1, encodeSlot b.slot2, encodeSlot b.slot3⟩
  | none => ⟨false, .noEvent, .noEvent, .noEvent⟩

/-- The slot an event kind fills (R33, R34). -/
def EventKind.slot : EventKind → Slot
  | .noteOn p => .noteOn p
  | .noteOff => .noteOff

/-- `emit(c, ev)`: the event of a channel's slot, where there is one (R18, R34). -/
def slotEvent (c : ToneChannel) : Slot → List NoteEvent
  | .noEvent => []
  | .noteOn p => [⟨c, .noteOn p⟩]
  | .noteOff => [⟨c, .noteOff⟩]

/-- The non-empty slots in ascending channel order, each tagged with its channel (R183; log 14). -/
def EventBundle.serialize (b : EventBundle) : List NoteEvent :=
  slotEvent .t1 b.slot1 ++ slotEvent .t2 b.slot2 ++ slotEvent .t3 b.slot3

end Sys2Proof.Machine
end

