-- ==== Sys2Proof/Safety.lean ====
section
/-! DEFINITION. What claims are stated in: when an outcome completes, what a state's event port may hold, the event
bundles of a run, and the whole-stream meaning of 20_memory.md R62 as a fold over CUR and LAST. -/

namespace Sys2Proof.Safety

open Sys2Proof.Machine

/-- The outcome is a next state: no fault, no refusal (60_exceptions.md R210). -/
def Completes (o : Host.Outcome State Fault Refusal) : Prop := ∃ t, o = .next t

/-- A number the 8-bit note field of the event port can hold (00_scope.md R12, 41_pitch.md R147). -/
abbrev FitsNote (n : Int) : Prop := -128 ≤ n ∧ n ≤ 127

/-- What a slot may hold beside the channel's registers right after the tick: a NoteOn only for an audible channel, with
that channel's own pitch in the port's range; a NoteOff only for a silent one (R176, R177, R147). -/
def SlotAgrees (clock : Nat) (t : Tone) : Slot → Prop
  | .noEvent => True
  | .noteOn p => t.att ≠ Config.silent ∧ p = noteOf clock t.freq.toNat ∧ ∀ n, p = some n → FitsNote n
  | .noteOff => t.att = Config.silent

/-- The event port agrees with the snapshots: while a bundle stands on it LAST is committed to CUR (R175), and every
slot agrees with its channel. -/
def PortAgrees (s : State) : Prop :=
  ∀ b, s.output = some b →
    s.last = s.cur ∧ ∀ c, SlotAgrees Config.clockHz (s.cur.tone c) (b.slot c)

/-- The bundles the port outputs in `k` steps, in tick order, up to the first stop (R183). -/
def bundles : Nat → State → List EventBundle
  | 0, _ => []
  | k + 1, s =>
    match step s with
    | .next t => t.output.toList ++ bundles k t
    | .fault _ => []
    | .refused _ => []

/-- `w` is a REG_WRITE word (R71). -/
abbrev IsRegWriteWord (w : CommandWord) : Prop := CommandWord.kind w = 0#3

/-- `w` is a tick word: WAIT, WAIT735 or WAIT882 (R71). -/
abbrev IsTickWord (w : CommandWord) : Prop :=
  CommandWord.kind w = 1#3 ∨ CommandWord.kind w = 2#3 ∨ CommandWord.kind w = 3#3

/-- One command's effect on the pair (CUR, LAST), read off the word's kind and byte (R102, R174, R175). -/
def foldCommand (p : ChipState × ChipState) (w : CommandWord) : ChipState × ChipState :=
  if IsRegWriteWord w then (p.1.apply (CommandWord.byte w), p.2)
  else if IsTickWord w then (p.1, p.1)
  else p

/-- TLO1, TLO2, TLO3 by channel (R103, R105, R107). -/
def tloOf : ToneChannel → Nibble → Instr
  | .t1, d => .tlo1 d
  | .t2, d => .tlo2 d
  | .t3, d => .tlo3 d

/-- TATT1, TATT2, TATT3 by channel (R104, R106, R108). -/
def tattOf : ToneChannel → Nibble → Instr
  | .t1, d => .tatt1 d
  | .t2, d => .tatt2 d
  | .t3, d => .tatt3 d

/-- The command port's deliveries of a list of command words (R62). -/
def commands (ws : List CommandWord) : List PortInput := ws.map .command

end Sys2Proof.Safety
end

