-- ==== Sys2Proof/Certificates/Slice0/Obligations.lean ====
section
/-! DEFINITION. The statements for the provers, each from a rule of spec/ or from the sections its docstring names.
"The spec's own decision" marks a clause that rests on a row D<n> of 92_eei_decisions.md. -/

open Sys2Proof Sys2Proof.Machine Sys2Proof.Safety

/-! ### Encoding -/

/-- A few words of each family, written out from 30_encoding.md sections 1 and 2, decode to their commands
(95_test_vectors.md section 2.4). The layout of the command word is the spec's own decision D2 (log 10); that `0x48`, a
data-only byte with bit 6 set, is DATA 8 is its own decision D7 (log 8). -/
def Obligations.ListedWordsDecode : Prop :=
  decode 0x000000080#35 = .tlo1 0#4 ∧ decode 0x00000009F#35 = .tatt1 15#4 ∧ decode 0x0000000A5#35 = .tlo2 5#4 ∧
  decode 0x0000000D0#35 = .tatt3 0#4 ∧ decode 0x0000000E3#35 = .ntype 3#4 ∧ decode 0x0000000FF#35 = .natt 15#4 ∧
  decode 0x000000048#35 = .data 8#6 ∧ decode 0x100000064#35 = .wait 100#32 ∧ decode 0x200000000#35 = .wait735 ∧
  decode 0x3000ABCDE#35 = .wait882 ∧ decode 0x60000DEAD#35 = .other

/-- R75, R76: bit 7 of the byte selects the format; a latch/data byte's bits 6 to 4 name one of the eight forms and its
bits 3 to 0 are the operand. -/
def Obligations.LatchByteFields : Prop :=
  ∀ b : RawWrite,
    (b.toNat < 128 → ∃ h, decodeByte b = .data h) ∧
    (128 ≤ b.toNat →
      decodeByte b =
        [Instr.tlo1, Instr.tatt1, Instr.tlo2, Instr.tatt2, Instr.tlo3, Instr.tatt3, Instr.ntype, Instr.natt].getD
          (b.toNat / 16 - 8) Instr.tlo1 (BitVec.ofNat 4 (b.toNat % 16)))

/-- Decoding an instruction's word gives the instruction back, for every instruction and every operand (30_encoding.md
sections 1, 2 and 5). -/
def Obligations.DecodeOfEncode : Prop := ∀ i : Instr, decode (encode i) = i

/-- Encoding a decoded word gives the word with its ignored bits cleared, and OTHER as `OTHER 4, 0` (30_encoding.md
sections 1, 2 and 6; the ignored bits are the spec's own decisions D2 and D7). -/
def Obligations.EncodeOfDecodeClearsIgnoredBits : Prop :=
  ∀ w : CommandWord,
    (CommandWord.kind w = 0#3 → w.getLsbD 7 = true → encode (decode w) = w &&& 0x7000000FF#35) ∧
    (CommandWord.kind w = 0#3 → w.getLsbD 7 = false → encode (decode w) = w &&& 0x70000003F#35) ∧
    (CommandWord.kind w = 1#3 → encode (decode w) = w) ∧
    (CommandWord.kind w = 2#3 ∨ CommandWord.kind w = 3#3 → encode (decode w) = w &&& 0x700000000#35) ∧
    (w.getLsbD 34 = true → encode (decode w) = 0x400000000#35)

/-- R80: no encoding is illegal, reserved or trapping: every command word has the fixed bits of exactly one row of the
opcode table, decodes to that row's command, and that command completes in every state. -/
def Obligations.EveryWordHasOneMeaning : Prop :=
  ∀ w : CommandWord,
    (opcodeTable.filter fun r => r.holds w).map OpcodeRow.mnemonic = [(decode w).mnemonic] ∧
    ∀ s : State, Completes (exec (decode w) s)

/-- A disassembled word is a line within the syntax's operand ranges, and assembling it gives the word back but for the
ignored payload bits: bit 6 of a data-only byte and the kind and payload of OTHER are kept (30_encoding.md section 6; the
syntax is the spec's own decision D16). -/
def Obligations.DisassembledLineAssemblesBack : Prop :=
  ∀ w : CommandWord,
    (disassemble w).wellFormed = true ∧
    (CommandWord.kind w = 0#3 → assemble (disassemble w) = w &&& 0x7000000FF#35) ∧
    (CommandWord.kind w = 1#3 → assemble (disassemble w) = w) ∧
    (CommandWord.kind w = 2#3 ∨ CommandWord.kind w = 3#3 → assemble (disassemble w) = w &&& 0x700000000#35) ∧
    (w.getLsbD 34 = true → assemble (disassemble w) = w)

/-! ### The step -/

/-- R62: the next command word of the port is consumed, and the step is exactly the run of the command it decodes to. -/
def Obligations.StepRunsDecodedCommand : Prop :=
  ∀ (s : State) (w : CommandWord) (rest : List PortInput), s.input = .command w :: rest →
    step s = exec (decode w) { s with input := rest }

/-- A table word placed by the host is the very next command run, in any state (the loading is the model's, log 2). -/
def Obligations.FetchedWordRunsNext : Prop :=
  ∀ (s : State) (nbits w : Nat) (i : Instr), decodeTableWord nbits w = some i →
    step (s.withFetchWord nbits w) = exec i s

/-- A reset sets CUR and LAST to RESET_STATE, emits no bundle and leaves the rest of the stream to come; nothing of the
machine's past remains (70_reset_and_hazards.md section 1; the spec's own decision D17; log 3). -/
def Obligations.ResetStepForgetsThePast : Prop :=
  ∀ (s : State) (rest : List PortInput), s.input = .reset :: rest →
    step s = .next { input := rest, cur := ChipState.reset, last := ChipState.reset, output := none }

/-- A step stops exactly when the stream is exhausted, and then by that name and with no final tick (the spec's own
decision D10; that the stop is a fault of the model is log 4). -/
def Obligations.StepStopsOnlyAtEndOfStream : Prop :=
  ∀ s : State, (s.input = [] → step s = .fault .streamExhausted) ∧ (s.input ≠ [] → Completes (step s))

/-- R210: no command raises anything: every command answers a next state from every state. -/
def Obligations.EveryCommandCompletes : Prop := ∀ (i : Instr) (s : State), Completes (exec i s)

/-! ### The register engine -/

/-- R103, R105, R107: TLO1, TLO2, TLO3 complete from every state; the low four bits of the channel's divider become the
operand, bits 9 to 4 are kept, the latch names the channel, and nothing else of CUR, LAST or the port's stream changes; no
event is emitted. The bytes `0x80`-`0x8F`, `0xA0`-`0xAF` and `0xC0`-`0xCF` are these commands. -/
def Obligations.FrequencyLowWriteResult : Prop :=
  (∀ (c : ToneChannel) (b : RawWrite), b.toNat / 16 = 8 + 2 * (c.number - 1) →
    decodeByte b = tloOf c (BitVec.ofNat 4 b.toNat)) ∧
  ∀ (c : ToneChannel) (d : Nibble) (s : State), ∃ t, exec (tloOf c d) s = .next t ∧
    (∀ k, k < 10 → (t.cur.tone c).freq.getLsbD k =
      if k < 4 then d.getLsbD k else (s.cur.tone c).freq.getLsbD k) ∧
    t.cur.latch = c ∧ (t.cur.tone c).att = (s.cur.tone c).att ∧
    (∀ c', c' ≠ c → t.cur.tone c' = s.cur.tone c') ∧ t.cur.noise = s.cur.noise ∧
    t.last = s.last ∧ t.output = none ∧ t.input = s.input

/-- R104, R106, R108: TATT1, TATT2, TATT3 complete from every state; the channel's attenuation becomes the operand and
nothing else changes, the latch included; no event is emitted. The bytes `0x90`-`0x9F`, `0xB0`-`0xBF` and `0xD0`-`0xDF` are
these commands. -/
def Obligations.AttenuationWriteResult : Prop :=
  (∀ (c : ToneChannel) (b : RawWrite), b.toNat / 16 = 9 + 2 * (c.number - 1) →
    decodeByte b = tattOf c (BitVec.ofNat 4 b.toNat)) ∧
  ∀ (c : ToneChannel) (d : Nibble) (s : State), ∃ t, exec (tattOf c d) s = .next t ∧
    (t.cur.tone c).att = d ∧ (t.cur.tone c).freq = (s.cur.tone c).freq ∧ t.cur.latch = s.cur.latch ∧
    (∀ c', c' ≠ c → t.cur.tone c' = s.cur.tone c') ∧ t.cur.noise = s.cur.noise ∧
    t.last = s.last ∧ t.output = none ∧ t.input = s.input

/-- NTYPE and NATT complete from every state; the one noise field becomes the operand (R109, R110) and nothing else
changes; that the latch is among what is kept is the spec's own decision D8 (log 9). -/
def Obligations.NoiseWriteResult : Prop :=
  ∀ (d : Nibble) (s : State),
    (∃ t, exec (.ntype d) s = .next t ∧ t.cur.noise.type = d ∧ t.cur.noise.att = s.cur.noise.att ∧
      t.cur.latch = s.cur.latch ∧ (∀ c, t.cur.tone c = s.cur.tone c) ∧
      t.last = s.last ∧ t.output = none ∧ t.input = s.input) ∧
    (∃ t, exec (.natt d) s = .next t ∧ t.cur.noise.att = d ∧ t.cur.noise.type = s.cur.noise.type ∧
      t.cur.latch = s.cur.latch ∧ (∀ c, t.cur.tone c = s.cur.tone c) ∧
      t.last = s.last ∧ t.output = none ∧ t.input = s.input)

/-- DATA completes from every state; bits 9 to 4 of the latched channel's divider become the operand, its low four bits
and everything else are kept; no event is emitted (R111). The bytes `0x00`-`0x7F` are this command with the operand of
their bits 5 to 0; that bit 6 is ignored is the spec's own decision D7 (log 8). -/
def Obligations.DataWriteResult : Prop :=
  (∀ b : RawWrite, b.toNat < 128 → decodeByte b = .data (BitVec.ofNat 6 b.toNat)) ∧
  ∀ (h : High6) (s : State), ∃ t, exec (.data h) s = .next t ∧
    (∀ k, k < 10 → (t.cur.tone s.cur.latch).freq.getLsbD k =
      if k < 4 then (s.cur.tone s.cur.latch).freq.getLsbD k else h.getLsbD (k - 4)) ∧
    (t.cur.tone s.cur.latch).att = (s.cur.tone s.cur.latch).att ∧ t.cur.latch = s.cur.latch ∧
    (∀ c', c' ≠ s.cur.latch → t.cur.tone c' = s.cur.tone c') ∧ t.cur.noise = s.cur.noise ∧
    t.last = s.last ∧ t.output = none ∧ t.input = s.input

/-- R53: the divider is assembled from two bytes, each updating only its own slice: bits 3 to 0 from bits 3 to 0 of a
latch/data byte with register code `2*(c-1)`, bits 9 to 4 from bits 5 to 0 of a data-only byte written while the latch
names the channel; either byte alone. -/
def Obligations.DividerAssembledFromTwoBytes : Prop :=
  ∀ (S : ChipState) (c : ToneChannel) (b : RawWrite),
    (b.toNat / 16 = 8 + 2 * (c.number - 1) → ∀ k, k < 10 → ((S.apply b).tone c).freq.getLsbD k =
      if k < 4 then b.getLsbD k else (S.tone c).freq.getLsbD k) ∧
    (b.toNat < 128 → S.latch = c → ∀ k, k < 10 → ((S.apply b).tone c).freq.getLsbD k =
      if k < 4 then (S.tone c).freq.getLsbD k else b.getLsbD (k - 4))

/-- R102: a REG_WRITE word replaces CUR by `apply` of it and the word's byte, leaves LAST, and emits no event. -/
def Obligations.RegisterWriteFoldsItsByte : Prop :=
  ∀ (w : CommandWord) (s : State), IsRegWriteWord w → ∃ t, exec (decode w) s = .next t ∧
    t.cur = s.cur.apply (CommandWord.byte w) ∧ t.last = s.last ∧ t.output = none ∧ t.input = s.input

/-- Applying a byte twice is applying it once (40_register_engine.md section 3, an inference of the spec). -/
def Obligations.ApplyIsIdempotent : Prop := ∀ (S : ChipState) (b : RawWrite), (S.apply b).apply b = S.apply b

/-- An attenuation or noise byte keeps the latch and commutes with every data-only byte, so it may stand between a latch
byte and its data-only byte (40_register_engine.md section 3, an inference of the spec; codes 6 and 7 rest on D8). -/
def Obligations.AttenuationAndNoiseBytesLeaveThePair : Prop :=
  ∀ (S : ChipState) (x D : RawWrite), 128 ≤ x.toNat → x.toNat / 16 ≠ 8 → x.toNat / 16 ≠ 10 → x.toNat / 16 ≠ 12 →
    D.toNat < 128 → (S.apply x).apply D = (S.apply D).apply x ∧ (S.apply x).latch = S.latch

/-- The two commands of `TONE c, f` leave exactly the divider `f` and the latch `c`, from every state and for every channel
and divider (30_encoding.md section 6 and 40_register_engine.md section 3, the spec's own decision D16 and inference). -/
def Obligations.TonePairWritesWholeDivider : Prop :=
  ∀ (s : State) (c : ToneChannel) (f : Freq) (rest : List PortInput),
    s.input = commands ((PseudoLine.tone c f.toNat).expand.map assemble) ++ rest →
    Sys2Proof.core.run 2 s = .next
      { input := rest, cur := { s.cur.withTone c ⟨f, (s.cur.tone c).att⟩ with latch := c }, last := s.last,
        output := none }

/-- Each register of CUR is written only by the commands the register map names: a divider by its TLO command or by DATA
while latched, an attenuation by its TATT command, the noise fields by NTYPE and NATT (10_state.md sections 2 and 3). -/
def Obligations.RegistersHaveOnlyTheirWriters : Prop :=
  ∀ (i : Instr) (s t : State), exec i s = .next t →
    (∀ c, (t.cur.tone c).freq ≠ (s.cur.tone c).freq →
      (∃ d, i = tloOf c d) ∨ (s.cur.latch = c ∧ ∃ h, i = .data h)) ∧
    (∀ c, (t.cur.tone c).att ≠ (s.cur.tone c).att → ∃ d, i = tattOf c d) ∧
    (t.cur.noise.type ≠ s.cur.noise.type → ∃ d, i = .ntype d) ∧
    (t.cur.noise.att ≠ s.cur.noise.att → ∃ d, i = .natt d)

/-- R26: the latch is written only by the frequency-low latch commands, and read only by DATA: under any other command two
machines that differ only in CUR's latch emit the same events and agree again but for the latch. -/
def Obligations.LatchWrittenByTloReadByData : Prop :=
  ∀ (i : Instr) (s t : State), exec i s = .next t →
    (t.cur.latch ≠ s.cur.latch → ∃ c d, i = tloOf c d) ∧
    ((∀ h, i ≠ .data h) → ∀ l, ∃ u, exec i { s with cur := { s.cur with latch := l } } = .next u ∧
      u.output = t.output ∧ u.input = t.input ∧
      (∀ c, u.cur.tone c = t.cur.tone c) ∧ u.cur.noise = t.cur.noise ∧
      (∀ c, u.last.tone c = t.last.tone c) ∧ u.last.noise = t.last.noise)

/-- Over one step, CUR changes only by a REG_WRITE or a reset, LAST only by a tick, which sets it to CUR, or by a reset
(10_state.md section 4, that no other command writes either; what each of the writers writes is said by
RegisterWriteFoldsItsByte, TickResult and ResetStepForgetsThePast). -/
def Obligations.SnapshotsHaveOnlyTheirWriters : Prop :=
  ∀ s t : State, step s = .next t →
    (t.cur ≠ s.cur → ∃ rest, s.input = .reset :: rest ∨ ∃ w, s.input = .command w :: rest ∧ IsRegWriteWord w) ∧
    (t.last ≠ s.last → ∃ rest, s.input = .reset :: rest ∨
      ∃ w, s.input = .command w :: rest ∧ IsTickWord w ∧ t.last = s.cur)

/-! ### Ticks and the detector -/

/-- R175 to R178: WAIT, WAIT735 and WAIT882 complete from every state; CUR is unchanged, LAST becomes CUR, and the bundle
holds for every tone channel what rules 1, 2 and 3 give on the old LAST and CUR. -/
def Obligations.TickResult : Prop :=
  ∀ (i : Instr) (s : State), ((∃ n, i = .wait n) ∨ i = .wait735 ∨ i = .wait882) →
    ∃ t b, exec i s = .next t ∧ t.cur = s.cur ∧ t.last = s.cur ∧ t.input = s.input ∧ t.output = some b ∧
      ∀ c, ((s.cur.tone c).att ≠ 15#4 ∧ ((s.last.tone c).att = 15#4 ∨ (s.last.tone c).freq ≠ (s.cur.tone c).freq) →
          b.slot c = .noteOn (noteOf Config.clockHz (s.cur.tone c).freq.toNat)) ∧
        ((s.cur.tone c).att = 15#4 ∧ (s.last.tone c).att ≠ 15#4 → b.slot c = .noteOff) ∧
        ((s.cur.tone c).att = 15#4 ∧ (s.last.tone c).att = 15#4 → b.slot c = .noEvent) ∧
        ((s.cur.tone c).att ≠ 15#4 ∧ (s.last.tone c).att ≠ 15#4 ∧ (s.last.tone c).freq = (s.cur.tone c).freq →
          b.slot c = .noEvent)

/-- WAIT735 acts as `WAIT 735` and names its duration, WAIT882 as `WAIT 882`, and the sample count has no effect (R13, R171,
R172; the last is the spec's own decision D9, log 11). -/
def Obligations.TickCommandsAreEqual : Prop :=
  ∀ (s : State) (n m : Payload), exec (.wait n) s = exec (.wait m) s ∧
    exec .wait735 s = exec (.wait 735#32) s ∧ Instr.wait735.samples = (Instr.wait 735#32).samples ∧
    exec .wait882 s = exec (.wait 882#32) s ∧ Instr.wait882.samples = (Instr.wait 882#32).samples

/-- Every word of kinds 4 to 7 is OTHER, and OTHER completes from every state with CUR and LAST unchanged (R174); that its
step shows no bundle on the event port is log 5. -/
def Obligations.OtherIsIgnored : Prop :=
  (∀ w : CommandWord, w.getLsbD 34 = true → decode w = .other) ∧
  ∀ s : State, ∃ t, exec .other s = .next t ∧ t.cur = s.cur ∧ t.last = s.last ∧ t.input = s.input ∧ t.output = none

/-- R180: a channel's event depends only on that channel's registers in LAST and CUR: machines that agree on them, whatever
else they hold, put the same event in the channel's slot at any tick. -/
def Obligations.ChannelEventsAreIndependent : Prop :=
  ∀ (i : Instr) (c : ToneChannel) (s s' t t' : State) (b b' : EventBundle),
    s.last.tone c = s'.last.tone c → s.cur.tone c = s'.cur.tone c →
    exec i s = .next t → exec i s' = .next t' → t.output = some b → t'.output = some b' → b.slot c = b'.slot c

/-- When rule 1 applies and the divider is 0, the event of any tick command is a NoteOn without pitch; it is not suppressed.
The source leaves this open, and that the literal behaviour is normative is the spec's own resolution (R184,
93_implementation_defined.md U1; log 16). -/
def Obligations.NoteOnWithoutPitchIsEmitted : Prop :=
  ∀ (i : Instr) (s : State) (c : ToneChannel), ((∃ n, i = .wait n) ∨ i = .wait735 ∨ i = .wait882) →
    (s.cur.tone c).att ≠ 15#4 → ((s.last.tone c).att = 15#4 ∨ (s.last.tone c).freq ≠ (s.cur.tone c).freq) →
    (s.cur.tone c).freq = 0#10 →
    ∃ t b, exec i s = .next t ∧ t.output = some b ∧ b.slot c = .noteOn none

/-- A second tick with no write after the first finds LAST = CUR, gives no event and changes nothing (42_note_detector.md
sections 1 to 3). -/
def Obligations.SecondTickIsEmpty : Prop :=
  ∀ (i j : Instr) (s t : State), i.isTick = true → j.isTick = true → exec i s = .next t →
    exec j t = .next { t with output := some ⟨.noEvent, .noEvent, .noEvent⟩ }

/-- The tick strobe of the event port is up after a step exactly when the step was a tick command: no register write, no OTHER
and no reset outputs a bundle, and every tick does, empty slots included (10_state.md section 5, 42_note_detector.md section 3,
70_reset_and_hazards.md section 1; log 5). -/
def Obligations.BundleExactlyAtTicks : Prop :=
  ∀ s t : State, step s = .next t →
    (t.eventPort.strobe = true ↔ ∃ w rest, s.input = .command w :: rest ∧ IsTickWord w)

/-- R63, R182: after any run of register writes and OTHER commands, the tick that follows emits the diff of the LAST of
before the run and the CUR folded from all of it, and commits that CUR; the writes between count only through that fold. -/
def Obligations.TickSeesOnlyTheNetEffect : Prop :=
  ∀ (s : State) (ws : List CommandWord) (k : CommandWord) (rest : List PortInput) (C : ChipState),
    (∀ w ∈ ws, ¬ IsTickWord w) → IsTickWord k → s.input = commands (ws ++ [k]) ++ rest →
    C = (ws.foldl foldCommand (s.cur, s.last)).1 →
    Sys2Proof.core.run (ws.length + 1) s = .next
      { input := rest, cur := C, last := C, output := some (detectAll Config.clockHz s.last C) }

/-- R62: the result of a stream is the left fold of its commands over (CUR, LAST), consumed in order. -/
def Obligations.StreamIsLeftFold : Prop :=
  ∀ (s : State) (ws : List CommandWord) (rest : List PortInput), s.input = commands ws ++ rest →
    ∃ t, Sys2Proof.core.run ws.length s = .next t ∧
      (t.cur, t.last) = ws.foldl foldCommand (s.cur, s.last) ∧ t.input = rest

/-- A whole stream outputs exactly one bundle for each of its tick commands, and none at its end, however long the machine is
left to run (42_note_detector.md section 3; no final tick is the spec's own decision D10; log 12). -/
def Obligations.OneBundlePerTickAndNoneAtTheEnd : Prop :=
  ∀ (s : State) (ws : List CommandWord) (extra : Nat), s.input = commands ws →
    (bundles (ws.length + extra) s).length = (ws.filter fun w => decide (IsTickWord w)).length

/-- The first tick after reset: a silenced channel gets a NoteOff, an audible one whose divider left 0 a NoteOn, any other no
event (70_reset_and_hazards.md section 2, an inference of the spec; the divider 0 is its decision D6, LAST its D18). -/
def Obligations.FirstTickAfterReset : Prop :=
  ∀ (n : Payload) (s : State), s.last = State.reset.last →
    ∃ t b, exec (.wait n) s = .next t ∧ t.output = some b ∧
      ∀ c, b.slot c = if (s.cur.tone c).att = 15#4 then .noteOff
        else if (s.cur.tone c).freq = 0#10 then .noEvent
        else .noteOn (noteOf Config.clockHz (s.cur.tone c).freq.toNat)

/-- The split-divider hazard: a tick between the latch byte and the data-only byte sounds an audible channel at the new low and
the old high bits (70_reset_and_hazards.md section 3, an inference of the spec). -/
def Obligations.SplitDividerSoundsHalfUpdated : Prop :=
  ∀ (s t : State) (c : ToneChannel) (d : Nibble) (n : Payload),
    s.last = s.cur → (s.cur.tone c).att ≠ 15#4 → d.toNat ≠ (s.cur.tone c).freq.toNat % 16 →
    exec (tloOf c d) s = .next t →
    ∃ u b, exec (.wait n) t = .next u ∧ u.output = some b ∧
      b.slot c = .noteOn (noteOf Config.clockHz ((s.cur.tone c).freq.toNat / 16 * 16 + d.toNat))

/-! ### The event output port -/

/-- In the clock range every reachable pitch goes over the 8-bit port without loss: no pitch as `pitch_valid = 0, note = 0`, a
note as `pitch_valid = 1` and its two's complement (41_pitch.md, the spec's own decision D11; log 13). -/
def Obligations.PortCarriesEveryPitch : Prop :=
  ∀ (clock : Nat) (f : Freq), Config.ClockInRange clock →
    (noteOf clock f.toNat = none → encodeSlot (.noteOn (noteOf clock f.toNat)) = .noteOn false 0#8) ∧
    (∀ n, noteOf clock f.toNat = some n →
      ∃ b : BitVec 8, encodeSlot (.noteOn (noteOf clock f.toNat)) = .noteOn true b ∧ b.toInt = n)

/-- The serialized bundle holds each channel's event exactly when the channel's slot holds it, in ascending channel order (the
order is the spec's own decision D3; log 14). -/
def Obligations.SerializedEventsAscend : Prop :=
  ∀ b : EventBundle,
    (∀ e : NoteEvent, e ∈ b.serialize ↔ b.slot e.channel = e.kind.slot) ∧
    b.serialize.Pairwise fun e e' => e.channel.number < e'.channel.number

/-! ### The pitch function -/

/-- R141: divider 0 gives `None` at every clock, a value and not a fault; every other divider gives a note. -/
def Obligations.ZeroDividerHasNoPitch : Prop :=
  ∀ clock d : Nat, noteOf clock d = none ↔ d = 0

/-- For a positive clock and divider the note is the integer nearest `12*log2((clock/(32 d))/440)`, rounded half away from zero
in exact real arithmetic (41_pitch.md, 00_scope.md section 4; the exactness is the spec's own decision D12; log 15). -/
def Obligations.NoteIsRoundedLogarithm : Prop :=
  ∀ clock d : Nat, 0 < clock → 0 < d → ∃ n : Int, noteOf clock d = some n ∧
    ∀ v : ℝ, v = 12 * Real.logb 2 ((clock / (32 * d)) / 440) → (n : ℝ) = Real.sign v * (⌊|v| + 1 / 2⌋ : ℤ)

/-- The note is the one integer `n` with `2^(2n-1) < x^24 < 2^(2n+1)` for the exact rational `x = clock/(14080 d)` (41_pitch.md,
an inference of the spec; log 15). -/
def Obligations.NoteIsBracketedByPowersOfTwo : Prop :=
  ∀ (clock d : Nat) (n : Int), 0 < clock → 0 < d →
    (noteOf clock d = some n ↔
      (2 : ℚ) ^ (2 * n - 1) < ((clock : ℚ) / (14080 * d)) ^ 24 ∧
      ((clock : ℚ) / (14080 * d)) ^ 24 < (2 : ℚ) ^ (2 * n + 1))

/-- Doubling the divider lowers the note by an octave (41_pitch.md, an inference of the spec). -/
def Obligations.DoubledDividerIsAnOctaveLower : Prop :=
  ∀ (clock d : Nat) (n : Int), 0 < clock → 0 < d → noteOf clock d = some n → noteOf clock (2 * d) = some (n - 12)

/-- A larger divider never gives a higher note (41_pitch.md, an inference of the spec). -/
def Obligations.LargerDividerIsNoHigher : Prop :=
  ∀ (clock d d' : Nat) (n n' : Int), 0 < clock → 0 < d → d < d' →
    noteOf clock d = some n → noteOf clock d' = some n' → n' ≤ n

/-- Over the clock range every reachable divider's note fits 8 bits, and the extremes at the two ends of the range are the
stated ones (41_pitch.md, an inference of the spec; the range is its decision D5). -/
def Obligations.ReachableNotesFitTheRange : Prop :=
  (∀ (clock : Nat) (f : Freq) (n : Int), Config.ClockInRange clock → noteOf clock f.toNat = some n → FitsNote n) ∧
  noteOf 246400 1 = some 50 ∧ noteOf 246400 1023 = some (-70) ∧
  noteOf 22235472 1 = some 127 ∧ noteOf 22235472 1023 = some 8

/-- The divider `round(clock/14080)` has note 0 at every clock of at least 246400 Hz (41_pitch.md, an inference of the spec). -/
def Obligations.ConcertDividerIsNoteZero : Prop :=
  ∀ clock : Nat, 246400 ≤ clock → noteOf clock ((2 * clock + 14080) / 28160) = some 0

/-! ### Reset and the invariant -/

/-- R40, R43: after reset all three tone attenuations are 0, which is audible, and the latch names tone 1. -/
def Obligations.ResetAttenuationsAndLatch : Prop :=
  (∀ c, (State.reset.cur.tone c).att = 0#4 ∧ (State.reset.cur.tone c).audible = true) ∧ State.reset.cur.latch = .t1

/-- After reset the dividers and the noise fields are 0, LAST equals CUR, and nothing stands on the event port (the spec's own
decisions D6, D17, D18; log 6, log 7); no command is delivered yet (log 2, log 20). -/
def Obligations.ResetRemainingState : Prop :=
  (∀ c, (State.reset.cur.tone c).freq = 0#10) ∧ State.reset.cur.noise.type = 0#4 ∧ State.reset.cur.noise.att = 0#4 ∧
  State.reset.last = State.reset.cur ∧ State.reset.output = none ∧ State.reset.input = []

/-- Every step keeps the event port in agreement with the snapshots: while a bundle stands on it LAST is CUR, a NoteOn's
channel is audible and its pitch is that channel's and fits the port, a NoteOff's channel is silent (R147, R175 to R177). -/
def Obligations.StepKeepsPortAgreement : Prop :=
  ∀ s t : State, PortAgrees s → step s = .next t → PortAgrees t

/-- The event port agrees with the snapshots at reset, where nothing stands on it (70_reset_and_hazards.md section 1). -/
def Obligations.ResetHasPortAgreement : Prop := PortAgrees State.reset
end

