-- ==== Sys2Proof/Laws/Decode.lean ====
section
/-! SUPPORT. What each field of an assembled byte or word reads as, and what the decoder gives for each kind. -/

namespace Sys2Proof

@[simp] theorem kind_commandWord (k : BitVec 3) (p : Payload) :
    CommandWord.kind (commandWord k p) = k := by
  apply BitVec.eq_of_getLsbD_eq
  intro i hi
  simp only [CommandWord.kind, commandWord, BitVec.getLsbD_extractLsb, BitVec.getLsbD_append]
  rw [if_neg (by omega)]
  simp [hi, show 32 + i - 32 = i by omega]

@[simp] theorem payload_commandWord (k : BitVec 3) (p : Payload) :
    CommandWord.payload (commandWord k p) = p := by
  apply BitVec.eq_of_getLsbD_eq
  intro i hi
  simp only [CommandWord.payload, commandWord, BitVec.getLsbD_extractLsb, BitVec.getLsbD_append]
  simp [hi]

@[simp] theorem kind_regWriteWord (b : RawWrite) : CommandWord.kind (regWriteWord b) = 0#3 := by
  simp [regWriteWord]

@[simp] theorem byte_regWriteWord (b : RawWrite) : CommandWord.byte (regWriteWord b) = b := by
  apply BitVec.eq_of_getLsbD_eq
  intro i hi
  simp only [CommandWord.byte, regWriteWord, commandWord, BitVec.getLsbD_extractLsb, BitVec.getLsbD_append]
  simp [hi, show i < 32 by omega]

@[simp] theorem isLatch_latchByte (r : BitVec 3) (d : Nibble) : RawWrite.isLatch (latchByte r d) = true := by
  simp only [RawWrite.isLatch, latchByte, BitVec.getLsbD_append]
  simp

@[simp] theorem reg_latchByte (r : BitVec 3) (d : Nibble) : RawWrite.reg (latchByte r d) = r := by
  apply BitVec.eq_of_getLsbD_eq
  intro i hi
  simp only [RawWrite.reg, latchByte, BitVec.getLsbD_extractLsb, BitVec.getLsbD_append]
  simp [hi]

@[simp] theorem nibble_latchByte (r : BitVec 3) (d : Nibble) : RawWrite.nibble (latchByte r d) = d := by
  apply BitVec.eq_of_getLsbD_eq
  intro i hi
  simp only [RawWrite.nibble, latchByte, BitVec.getLsbD_extractLsb, BitVec.getLsbD_append]
  simp [hi]

@[simp] theorem isLatch_dataByte (h : High6) : RawWrite.isLatch (dataByte h) = false := by
  simp only [RawWrite.isLatch, dataByte, BitVec.getLsbD_append]
  simp

@[simp] theorem high6_dataByte (h : High6) : RawWrite.high6 (dataByte h) = h := by
  apply BitVec.eq_of_getLsbD_eq
  intro i hi
  simp only [RawWrite.high6, dataByte, BitVec.getLsbD_extractLsb, BitVec.getLsbD_append]
  simp [hi]

theorem decode_of_regWrite {w : CommandWord} (h : CommandWord.kind w = 0#3) :
    decode w = decodeByte (CommandWord.byte w) := by simp [decode, h]

theorem decode_of_wait {w : CommandWord} (h : CommandWord.kind w = 1#3) :
    decode w = .wait (CommandWord.payload w) := by simp [decode, h]

theorem decode_of_wait735 {w : CommandWord} (h : CommandWord.kind w = 2#3) : decode w = .wait735 := by
  simp [decode, h]

theorem decode_of_wait882 {w : CommandWord} (h : CommandWord.kind w = 3#3) : decode w = .wait882 := by
  simp [decode, h]

/-- The eight values of a 3-bit field, for case analysis on a kind or a register code. -/
theorem bitVec3_cases (k : BitVec 3) :
    k = 0#3 ∨ k = 1#3 ∨ k = 2#3 ∨ k = 3#3 ∨ k = 4#3 ∨ k = 5#3 ∨ k = 6#3 ∨ k = 7#3 := by
  revert k; decide

/-- The five cases of a command word's kind (R71). -/
theorem decode_cases (w : CommandWord) :
    (CommandWord.kind w = 0#3 ∧ decode w = decodeByte (CommandWord.byte w)) ∨
    (CommandWord.kind w = 1#3 ∧ decode w = .wait (CommandWord.payload w)) ∨
    (CommandWord.kind w = 2#3 ∧ decode w = .wait735) ∨
    (CommandWord.kind w = 3#3 ∧ decode w = .wait882) ∨
    (w.getLsbD 34 = true ∧ decode w = .other) := by
  have hbit : (CommandWord.kind w).getLsbD 2 = w.getLsbD 34 := by
    simp [CommandWord.kind]
  rcases bitVec3_cases (CommandWord.kind w) with h | h | h | h | h | h | h | h <;>
    rw [h] at hbit <;> simp [decode, h, ← hbit]

end Sys2Proof
end

