-- ==== Sys2Proof/Laws/Pitch.lean ====
section
/-! SUPPORT. What `floorLog2Ratio` computes, and the small lemmas of `noteOf`. -/

namespace Sys2Proof.Machine

/-- `floorLog2Ratio p q` is the leading bit position of the rational `p / q`: `2^L ≤ p/q < 2^(L+1)`. -/
theorem floorLog2Ratio_spec {p q : Nat} (hp : 0 < p) (hq : 0 < q) :
    (2 : ℚ) ^ floorLog2Ratio p q * q ≤ p ∧ (p : ℚ) < (2 : ℚ) ^ (floorLog2Ratio p q + 1) * q := by
  unfold floorLog2Ratio
  split
  case isTrue h =>
    have hne : p / q ≠ 0 := by
      have := Nat.div_pos h hq
      omega
    have hlo : 2 ^ (p / q).log2 * q ≤ p :=
      (Nat.le_div_iff_mul_le hq).1 (Nat.log2_self_le hne)
    have hhi : p < 2 ^ ((p / q).log2 + 1) * q :=
      (Nat.div_lt_iff_lt_mul hq).1 Nat.lt_log2_self
    constructor
    · rw [zpow_natCast]; exact_mod_cast hlo
    · rw [← Nat.cast_succ, zpow_natCast]; exact_mod_cast hhi
  case isFalse h =>
    have hne : (q - 1) / p ≠ 0 := by
      have := Nat.div_pos (show p ≤ q - 1 by omega) hp
      omega
    have hlo : 2 ^ ((q - 1) / p).log2 * p ≤ q - 1 :=
      (Nat.le_div_iff_mul_le hp).1 (Nat.log2_self_le hne)
    have hhi : q - 1 < 2 ^ (((q - 1) / p).log2 + 1) * p :=
      (Nat.div_lt_iff_lt_mul hp).1 Nat.lt_log2_self
    generalize ((q - 1) / p).log2 = k at hlo hhi
    have hlo' : (2 : ℚ) ^ k * p < q := by exact_mod_cast (show 2 ^ k * p < q by omega)
    have hhi' : (q : ℚ) ≤ 2 ^ (k + 1) * p := by exact_mod_cast (show q ≤ 2 ^ (k + 1) * p by omega)
    constructor
    · rw [← Nat.cast_succ, zpow_neg, zpow_natCast, inv_mul_le_iff₀ (by positivity)]
      exact hhi'
    · rw [show -((k : Int) + 1) + 1 = -(k : Int) by ring, zpow_neg, zpow_natCast, lt_inv_mul_iff₀ (by positivity)]
      exact hlo'

@[simp] theorem noteOf_of_pos {clock d : Nat} (h : 0 < d) : noteOf clock d = some (noteNumber clock d) := by
  simp [noteOf, Nat.pos_iff_ne_zero.1 h]

theorem concertDivisor_eq (d : Nat) : concertDivisor d = 14080 * d := rfl

/-- `CLOCK_HZ` lies in the range of R10, whatever the opaque choice. -/
theorem clockHz_inRange : Config.ClockInRange Config.clockHz := by
  have := Config.clockChoice.isLt
  simp only [Config.ClockInRange, Config.clockHz, Config.clockMin, Config.clockMax]
  omega

end Sys2Proof.Machine
end

