-- ==== Sys2Proof/Laws/State.lean ====
section
/-! SUPPORT. One lemma per field per update of the machine's state and of ChipState, so that no proof unfolds a record
update. -/

namespace Sys2Proof.Machine

section Updates
variable (s : State) (S : ChipState) (clock : Nat)

@[simp] theorem State.writeCur_input : (s.writeCur S).input = s.input := rfl
@[simp] theorem State.writeCur_cur : (s.writeCur S).cur = S := rfl
@[simp] theorem State.writeCur_last : (s.writeCur S).last = s.last := rfl
@[simp] theorem State.writeCur_output : (s.writeCur S).output = none := rfl

@[simp] theorem State.tick_input : (s.tick clock).input = s.input := rfl
@[simp] theorem State.tick_cur : (s.tick clock).cur = s.cur := rfl
@[simp] theorem State.tick_last : (s.tick clock).last = s.cur := rfl
@[simp] theorem State.tick_output : (s.tick clock).output = some (detectAll clock s.last s.cur) := rfl

@[simp] theorem State.quiet_input : s.quiet.input = s.input := rfl
@[simp] theorem State.quiet_cur : s.quiet.cur = s.cur := rfl
@[simp] theorem State.quiet_last : s.quiet.last = s.last := rfl
@[simp] theorem State.quiet_output : s.quiet.output = none := rfl

@[simp] theorem State.takeReset_input : s.takeReset.input = s.input := rfl
@[simp] theorem State.takeReset_cur : s.takeReset.cur = ChipState.reset := rfl
@[simp] theorem State.takeReset_last : s.takeReset.last = ChipState.reset := rfl
@[simp] theorem State.takeReset_output : s.takeReset.output = none := rfl

/-- The strobe is up exactly while a bundle is output (R183). -/
@[simp] theorem State.eventPort_strobe : s.eventPort.strobe = s.output.isSome := by
  unfold State.eventPort
  cases s.output <;> rfl

end Updates

section Tones
variable (S : ChipState) (c c' : ToneChannel) (t u : Tone)

@[simp] theorem ChipState.tone_withTone_self : (S.withTone c t).tone c = t := by cases c <;> rfl

theorem ChipState.tone_withTone_of_ne (h : c' ≠ c) : (S.withTone c t).tone c' = S.tone c' := by
  cases c <;> cases c' <;> first | rfl | exact absurd rfl h

@[simp] theorem ChipState.withTone_noise : (S.withTone c t).noise = S.noise := by cases c <;> rfl
@[simp] theorem ChipState.withTone_latch : (S.withTone c t).latch = S.latch := by cases c <;> rfl
@[simp] theorem ChipState.withTone_tone : S.withTone c (S.tone c) = S := by cases c <;> rfl

@[simp] theorem ChipState.withTone_withTone : (S.withTone c t).withTone c u = S.withTone c u := by
  cases c <;> rfl

@[simp] theorem ChipState.tone_with_latch (l : ToneChannel) :
    ({ S with latch := l } : ChipState).tone c = S.tone c := by cases c <;> rfl

@[simp] theorem ChipState.tone_with_noise (n : Noise) :
    ({ S with noise := n } : ChipState).tone c = S.tone c := by cases c <;> rfl

/-- A ChipState is known by its three tones, its noise registers and its latch. -/
theorem ChipState.ext_tone {S T : ChipState} (ht : ∀ c, S.tone c = T.tone c) (hn : S.noise = T.noise)
    (hl : S.latch = T.latch) : S = T := by
  cases S; cases T
  simpa using ⟨ht .t1, ht .t2, ht .t3, hn, hl⟩

end Tones

end Sys2Proof.Machine
end

