-- ==== Sys2Proof/Laws/Ops.lean ====
section
/-! SUPPORT. One spec lemma per shared operation: the divider slices, the register writes, change detection. -/

namespace Sys2Proof.Machine

/-! ### The two slices of a divider (R53) -/

theorem getLsbD_freqWithLow (f : Freq) (d : Nibble) (i : Nat) :
    (freqWithLow f d).getLsbD i = if i < 4 then d.getLsbD i else f.getLsbD i := by
  simp only [freqWithLow, BitVec.getLsbD_append, BitVec.getLsbD_extractLsb]
  by_cases h : i < 4
  · simp [h]
  · by_cases h10 : i < 10
    · simp [h, show i - 4 < 6 by omega, show 4 + (i - 4) = i by omega]
    · simp [h, show ¬ i - 4 < 6 by omega, BitVec.getLsbD_of_ge f i (by omega)]

theorem getLsbD_freqWithHigh (f : Freq) (h : High6) (i : Nat) :
    (freqWithHigh f h).getLsbD i = if i < 4 then f.getLsbD i else h.getLsbD (i - 4) := by
  simp only [freqWithHigh, BitVec.getLsbD_append, BitVec.getLsbD_extractLsb]
  by_cases hi : i < 4 <;> simp [hi]

/-! ### Register writes: what each one leaves (R103 to R111) -/

section Writes
variable (S : ChipState) (c : ToneChannel) (d : Nibble) (h : High6)

@[simp] theorem ChipState.writeFreqLow_tone_self :
    (S.writeFreqLow c d).tone c = { S.tone c with freq := freqWithLow (S.tone c).freq d } := by
  cases c <;> rfl

theorem ChipState.writeFreqLow_tone_of_ne {c' : ToneChannel} (hne : c' ≠ c) :
    (S.writeFreqLow c d).tone c' = S.tone c' := by
  cases c <;> cases c' <;> first | rfl | exact absurd rfl hne

@[simp] theorem ChipState.writeFreqLow_latch : (S.writeFreqLow c d).latch = c := rfl
@[simp] theorem ChipState.writeFreqLow_noise : (S.writeFreqLow c d).noise = S.noise := by
  simp [ChipState.writeFreqLow]

@[simp] theorem ChipState.writeAtt_tone_self : (S.writeAtt c d).tone c = { S.tone c with att := d } := by
  simp [ChipState.writeAtt]

theorem ChipState.writeAtt_tone_of_ne {c' : ToneChannel} (hne : c' ≠ c) :
    (S.writeAtt c d).tone c' = S.tone c' := by
  simp [ChipState.writeAtt, ChipState.tone_withTone_of_ne, hne]

@[simp] theorem ChipState.writeAtt_latch : (S.writeAtt c d).latch = S.latch := by simp [ChipState.writeAtt]
@[simp] theorem ChipState.writeAtt_noise : (S.writeAtt c d).noise = S.noise := by simp [ChipState.writeAtt]

@[simp] theorem ChipState.writeNoiseType_tone : (S.writeNoiseType d).tone c = S.tone c := by
  simp [ChipState.writeNoiseType]
@[simp] theorem ChipState.writeNoiseType_noise : (S.writeNoiseType d).noise = { S.noise with type := d } := rfl
@[simp] theorem ChipState.writeNoiseType_latch : (S.writeNoiseType d).latch = S.latch := rfl

@[simp] theorem ChipState.writeNoiseAtt_tone : (S.writeNoiseAtt d).tone c = S.tone c := by
  simp [ChipState.writeNoiseAtt]
@[simp] theorem ChipState.writeNoiseAtt_noise : (S.writeNoiseAtt d).noise = { S.noise with att := d } := rfl
@[simp] theorem ChipState.writeNoiseAtt_latch : (S.writeNoiseAtt d).latch = S.latch := rfl

theorem ChipState.writeFreqHigh_tone_latch :
    (S.writeFreqHigh h).tone S.latch =
      { S.tone S.latch with freq := freqWithHigh (S.tone S.latch).freq h } := by
  simp [ChipState.writeFreqHigh]

theorem ChipState.writeFreqHigh_tone_of_ne {c' : ToneChannel} (hne : c' ≠ S.latch) :
    (S.writeFreqHigh h).tone c' = S.tone c' := by
  simp [ChipState.writeFreqHigh, ChipState.tone_withTone_of_ne, hne]

@[simp] theorem ChipState.writeFreqHigh_latch : (S.writeFreqHigh h).latch = S.latch := by
  simp [ChipState.writeFreqHigh]
@[simp] theorem ChipState.writeFreqHigh_noise : (S.writeFreqHigh h).noise = S.noise := by
  simp [ChipState.writeFreqHigh]

end Writes

/-! ### Change detection (R175 to R180) -/

theorem detectAll_slot (clock : Nat) (last cur : ChipState) (c : ToneChannel) :
    (detectAll clock last cur).slot c = detectTone clock (last.tone c) (cur.tone c) := by
  cases c <;> rfl

theorem Tone.audible_iff (t : Tone) : t.audible = true ↔ t.att ≠ Config.silent := by simp [Tone.audible]

/-- Everything `detect` can answer, with the condition of each answer (R176 to R178). -/
theorem detectTone_cases (clock : Nat) (last cur : Tone) :
    (cur.att ≠ Config.silent ∧ (last.att = Config.silent ∨ last.freq ≠ cur.freq) ∧
      detectTone clock last cur = .noteOn (noteOf clock cur.freq.toNat)) ∨
    (cur.att = Config.silent ∧ last.att ≠ Config.silent ∧ detectTone clock last cur = .noteOff) ∨
    (((cur.att = Config.silent ∧ last.att = Config.silent) ∨
        (cur.att ≠ Config.silent ∧ last.att ≠ Config.silent ∧ last.freq = cur.freq)) ∧
      detectTone clock last cur = .noEvent) := by
  by_cases hc : cur.att = Config.silent <;> by_cases hl : last.att = Config.silent <;>
    by_cases hf : last.freq = cur.freq <;>
    simp [detectTone, startsNote, endsNote, Tone.audible, hc, hl, hf]

end Sys2Proof.Machine
end

