-- ==== Sys2Proof/Laws/Exec.lean ====
section
/-! SUPPORT. What `exec` and `step` can do, said once. -/

namespace Sys2Proof.Machine

/-- What one command can do: fold a byte into CUR, tick, or nothing; it always answers a next state. -/
theorem exec_cases (i : Instr) (s : State) :
    (i.isRegWrite = true ∧ ∃ S, exec i s = .next (s.writeCur S)) ∨
    (i.isTick = true ∧ exec i s = .next (s.tick Config.clockHz)) ∨
    (i = .other ∧ exec i s = .next s.quiet) := by
  cases i
  case wait | wait735 | wait882 => exact .inr (.inl ⟨rfl, rfl⟩)
  case other => exact .inr (.inr ⟨rfl, rfl⟩)
  all_goals exact .inl ⟨rfl, _, rfl⟩

/-- What one step that answers a next state can be: a reset, or the decoded command run with its word consumed. -/
theorem step_cases {s t : State} (h : step s = .next t) :
    (∃ rest, s.input = .reset :: rest ∧ t = ({ s with input := rest } : State).takeReset) ∨
    (∃ w rest, s.input = .command w :: rest ∧ exec (decode w) { s with input := rest } = .next t) := by
  unfold step State.nextInput at h
  split at h
  · cases h
  · rename_i u heq
    split at heq
    · cases heq
    · rename_i p rest hin
      cases heq
      exact .inl ⟨rest, hin, by simpa using h.symm⟩
  · rename_i w u heq
    split at heq
    · cases heq
    · rename_i p rest hin
      cases heq
      exact .inr ⟨w, rest, hin, h⟩

/-- A run whose first step answers a next state goes on from it. -/
theorem run_succ_of_step {s t : State} (k : Nat) (h : step s = .next t) :
    Sys2Proof.core.run (k + 1) s = Sys2Proof.core.run k t := by
  have h' : Sys2Proof.core.step s = .next t := h
  simp only [Host.Core.run, h']

end Sys2Proof.Machine

namespace Sys2Proof.Safety

@[simp] theorem commands_nil : commands [] = [] := rfl
@[simp] theorem commands_cons (w : CommandWord) (ws : List CommandWord) :
    commands (w :: ws) = .command w :: commands ws := rfl
@[simp] theorem commands_append (ws ws' : List CommandWord) :
    commands (ws ++ ws') = commands ws ++ commands ws' := List.map_append

/-- A byte never decodes to a tick. -/
theorem isTick_decodeByte (b : RawWrite) : (decodeByte b).isTick = false := by
  unfold decodeByte
  split
  · rcases bitVec3_cases (RawWrite.reg b) with h | h | h | h | h | h | h | h <;> rw [h] <;> rfl
  · rfl

/-- The tick words are those that decode to a tick (R71). -/
theorem isTick_decode (w : CommandWord) : (decode w).isTick = true ↔ IsTickWord w := by
  unfold IsTickWord
  rcases bitVec3_cases (CommandWord.kind w) with h | h | h | h | h | h | h | h <;>
    simp only [decode, h, isTick_decodeByte] <;> simp [Instr.isTick]

end Sys2Proof.Safety
end

