-- ==== Sys2Proof/Laws/PerInstr.lean ====
section
/-! SUPPORT. For every instruction: its encoded word has the fixed bits of the opcode table's row of its mnemonic. -/

namespace Sys2Proof.Laws.MatchesRow

/-- The row of the instruction's mnemonic holds of its encoded word (spec/opcode_table.json). -/
def Statement (i : Instr) : Prop := ∃ r ∈ opcodeTable, r.mnemonic = i.mnemonic ∧ r.holds (encode i) = true

/-- The row is found in the table by its mnemonic. -/
theorem of_find {i : Instr}
    (h : (opcodeTable.find? fun r => r.mnemonic == i.mnemonic && r.holds (encode i)).isSome = true) : Statement i := by
  obtain ⟨r, hr⟩ := Option.isSome_iff_exists.1 h
  have hp := List.find?_some hr
  simp only [Bool.and_eq_true, beq_iff_eq] at hp
  exact ⟨r, List.mem_of_find?_eq_some hr, hp.1, hp.2⟩

theorem tlo1 (d : Nibble) : Statement (.tlo1 d) := of_find (by revert d; decide)
theorem tatt1 (d : Nibble) : Statement (.tatt1 d) := of_find (by revert d; decide)
theorem tlo2 (d : Nibble) : Statement (.tlo2 d) := of_find (by revert d; decide)
theorem tatt2 (d : Nibble) : Statement (.tatt2 d) := of_find (by revert d; decide)
theorem tlo3 (d : Nibble) : Statement (.tlo3 d) := of_find (by revert d; decide)
theorem tatt3 (d : Nibble) : Statement (.tatt3 d) := of_find (by revert d; decide)
theorem ntype (d : Nibble) : Statement (.ntype d) := of_find (by revert d; decide)
theorem natt (d : Nibble) : Statement (.natt d) := of_find (by revert d; decide)
theorem data (h : High6) : Statement (.data h) := of_find (by revert h; decide)

theorem wait (n : Payload) : Statement (.wait n) := by
  refine ⟨⟨"WAIT", 0x700000000#35, 0x100000000#35⟩, by decide, rfl, ?_⟩
  have h : (1#3 ++ n) &&& (7#3 ++ 0#32) = 1#3 ++ 0#32 := by
    rw [BitVec.and_append]
    simp
  exact beq_iff_eq.2 h

theorem wait735 : Statement .wait735 := of_find (by decide)
theorem wait882 : Statement .wait882 := of_find (by decide)
theorem other : Statement .other := of_find (by decide)

end Sys2Proof.Laws.MatchesRow
end

