-- ==== Sys2Proof/Tests/Slice0.lean ====
section
/-! SUPPORT. Tests with the expected results of 95_test_vectors.md and of the rules' own examples, the smoke tests of
WellFormed, and a witness for the hypotheses of every statement that has some. -/

namespace Sys2Proof.Tests

open Sys2Proof.Machine Sys2Proof.Safety

/-! ### WellFormed: one ill-formed term for each check (30_encoding.md R70, R84, R85) -/

theorem test_illformed_word : isCommandWord (2 ^ 35) = false ∧ isCommandWord (2 ^ 35 - 1) = true := by decide
theorem test_illformed_tlo : (AsmLine.tlo .t1 16).wellFormed = false := by decide
theorem test_illformed_tatt : (AsmLine.tatt .t3 16).wellFormed = false := by decide
theorem test_illformed_ntype : (AsmLine.ntype 16).wellFormed = false := by decide
theorem test_illformed_natt : (AsmLine.natt 16).wellFormed = false := by decide
theorem test_illformed_data : (AsmLine.data 64).wellFormed = false := by decide
theorem test_illformed_wr : (AsmLine.wr 256).wellFormed = false := by decide
theorem test_illformed_wait : (AsmLine.wait (2 ^ 32)).wellFormed = false := by decide
theorem test_illformed_other_kind :
    (AsmLine.other 3 0).wellFormed = false ∧ (AsmLine.other 8 0).wellFormed = false := by decide
theorem test_illformed_other_payload : (AsmLine.other 4 (2 ^ 32)).wellFormed = false := by decide
theorem test_illformed_tone : (PseudoLine.tone .t1 1024).wellFormed = false := by decide
theorem test_reject_wide_number : decodeNat (2 ^ 35) = .error .notACommandWord ∧ decodeTableWord 40 (2 ^ 35) = none :=
  ⟨rfl, rfl⟩

/-! ### Decoding: a word of every constructor, written bit by bit from R70 to R78: kind, ignored bits, byte -/

theorem test_decode_tlo1 : decode 0b000_000000000000000000000000_1_000_1010#35 = .tlo1 10#4 := by decide
theorem test_decode_tatt1 : decode 0b000_000000000000000000000000_1_001_1111#35 = .tatt1 15#4 := by decide
theorem test_decode_tlo2 : decode 0b000_000000000000000000000000_1_010_0101#35 = .tlo2 5#4 := by decide
theorem test_decode_tatt2 : decode 0b000_000000000000000000000000_1_011_0111#35 = .tatt2 7#4 := by decide
theorem test_decode_tlo3 : decode 0b000_000000000000000000000000_1_100_0001#35 = .tlo3 1#4 := by decide
theorem test_decode_tatt3 : decode 0b000_000000000000000000000000_1_101_0000#35 = .tatt3 0#4 := by decide
theorem test_decode_ntype : decode 0b000_000000000000000000000000_1_110_0011#35 = .ntype 3#4 := by decide
theorem test_decode_natt : decode 0b000_111111111111111111111111_1_111_1000#35 = .natt 8#4 := by decide
theorem test_decode_data : decode 0b000_000000000000000000000000_0_1_001000#35 = .data 8#6 := by decide
theorem test_decode_wait : decode 0b001_00000000000000000000000001100100#35 = .wait 100#32 := by decide
theorem test_decode_wait735 : decode 0b010_00000000000000000000000000000000#35 = .wait735 := by decide
theorem test_decode_wait882 : decode 0b011_00000000000010101011110011011110#35 = .wait882 := by decide
theorem test_decode_other : decode 0b110_00000000000000001101111010101101#35 = .other := by decide

/-- Section 2.4: ignored bits of a register write, and the two ends of OTHER and WAIT. -/
theorem test_decode_ends :
    decode 0x0FFFFFF80#35 = .tlo1 0#4 ∧ decode 0x1FFFFFFFF#35 = .wait 4294967295#32 ∧
    decode 0x400000000#35 = .other ∧ decode 0x7FFFFFFFF#35 = .other := by decide

/-- R84 to R86: assembler words, the raw form, and the line a disassembler prints for bit 6. -/
theorem test_assemble :
    assemble (.tlo .t1 0) = 0x000000080#35 ∧ assemble (.tatt .t1 15) = 0x00000009F#35 ∧
    assemble (.wait 100) = 0x100000064#35 ∧ assemble (.other 6 0xDEAD) = 0x60000DEAD#35 ∧
    disassemble 0x000000048#35 = .wr 0x48 ∧ disassemble 0x000000008#35 = .data 8 := by decide

/-- R85: `TONE 1, 254` is `TLO1 14` then `DATA 15` (95_test_vectors.md section 3.1). -/
theorem test_pseudo_tone :
    (PseudoLine.tone .t1 254).expand.map assemble = [0x00000008E#35, 0x00000000F#35] ∧
    PseudoLine.nop.expand.map assemble = [0x400000000#35] := by decide

/-! ### One step on a small state -/

/-- `S0` of section 2.1. -/
def S0 : ChipState := ⟨⟨0x2A5#10, 3#4⟩, ⟨0x15A#10, 15#4⟩, ⟨0x3FF#10, 7#4⟩, ⟨2#4, 9#4⟩, .t2⟩

/-- A machine with one word to come. -/
def at_ (cur last : ChipState) (w : CommandWord) : State := ⟨[.command w], cur, last, none⟩

/-- The state of an outcome, where there is one. -/
def nextOf : Host.Outcome State Fault Refusal → Option State
  | .next s => some s
  | .fault _ => none
  | .refused _ => none

/-- CUR after one step of a word on a ChipState. -/
def curAfter (S : ChipState) (w : CommandWord) : Option ChipState := (nextOf (step (at_ S S w))).map State.cur

theorem test_tlo1 : curAfter S0 0x080#35 = some { S0 with tone1 := ⟨0x2A0#10, 3#4⟩, latch := .t1 } ∧
    curAfter S0 0x08F#35 = some { S0 with tone1 := ⟨0x2AF#10, 3#4⟩, latch := .t1 } := by decide
theorem test_tatt1 : curAfter S0 0x093#35 = some S0 ∧
    curAfter S0 0x09F#35 = some { S0 with tone1 := ⟨0x2A5#10, 15#4⟩ } := by decide
theorem test_tlo2 : curAfter S0 0x0A0#35 = some { S0 with tone2 := ⟨0x150#10, 15#4⟩ } ∧
    curAfter S0 0x0AC#35 = some { S0 with tone2 := ⟨0x15C#10, 15#4⟩ } := by decide
theorem test_tatt2 : curAfter S0 0x0B0#35 = some { S0 with tone2 := ⟨0x15A#10, 0#4⟩ } ∧
    curAfter S0 0x0BE#35 = some { S0 with tone2 := ⟨0x15A#10, 14#4⟩ } := by decide
theorem test_tlo3 : curAfter S0 0x0C7#35 = some { S0 with tone3 := ⟨0x3F7#10, 7#4⟩, latch := .t3 } ∧
    curAfter S0 0x0CF#35 = some { S0 with latch := .t3 } := by decide
theorem test_tatt3 : curAfter S0 0x0D5#35 = some { S0 with tone3 := ⟨0x3FF#10, 5#4⟩ } ∧
    curAfter S0 0x0DF#35 = some { S0 with tone3 := ⟨0x3FF#10, 15#4⟩ } := by decide
theorem test_ntype : curAfter S0 0x0E0#35 = some { S0 with noise := ⟨0#4, 9#4⟩ } ∧
    curAfter S0 0x0EF#35 = some { S0 with noise := ⟨15#4, 9#4⟩ } := by decide
theorem test_natt : curAfter S0 0x0F0#35 = some { S0 with noise := ⟨2#4, 0#4⟩ } ∧
    curAfter S0 0x0FF#35 = some { S0 with noise := ⟨2#4, 15#4⟩ } := by decide
theorem test_data : curAfter S0 0x000#35 = some { S0 with tone2 := ⟨0x00A#10, 15#4⟩ } ∧
    curAfter S0 0x03F#35 = some { S0 with tone2 := ⟨0x3FA#10, 15#4⟩ } ∧
    curAfter S0 0x02A#35 = some { S0 with tone2 := ⟨0x2AA#10, 15#4⟩ } := by decide
/-- Bit 6 ignored: `0x40` acts as `0x00`, `0x7F` as `0x3F`, and `0x55` writes what was there. -/
theorem test_data_bit6 : curAfter S0 0x040#35 = curAfter S0 0x000#35 ∧ curAfter S0 0x07F#35 = curAfter S0 0x03F#35 ∧
    curAfter S0 0x055#35 = some S0 := by decide
/-- R102: a register write shows no bundle and keeps LAST. -/
theorem test_write_no_event : nextOf (step (at_ S0 ChipState.reset 0x09F#35)) =
    some ⟨[], { S0 with tone1 := ⟨0x2A5#10, 15#4⟩ }, ChipState.reset, none⟩ := by decide

/-- R170: WAIT 100 right after reset gives an empty bundle. -/
theorem test_wait_after_reset : nextOf (step (State.reset.withFetchWord 40 0x100000064)) =
    some { State.reset with output := some ⟨.noEvent, .noEvent, .noEvent⟩ } := by decide
/-- R171: `TLO1 4; DATA 15; WAIT735` from reset gives channel 1 the note of divider 0x0F4. -/
theorem test_wait735 :
    step (at_ { ChipState.reset with tone1 := ⟨0x0F4#10, 0#4⟩ } ChipState.reset 0x200000000#35) =
      .next ⟨[], { ChipState.reset with tone1 := ⟨0x0F4#10, 0#4⟩ }, { ChipState.reset with tone1 := ⟨0x0F4#10, 0#4⟩ },
        some ⟨.noteOn (noteOf Config.clockHz 0x0F4), .noEvent, .noEvent⟩⟩ := rfl
/-- R172: `TATT2 15; WAIT882` from reset gives channel 2 a NoteOff. -/
theorem test_wait882 :
    (nextOf (step (at_ { ChipState.reset with tone2 := ⟨0#10, 15#4⟩ } ChipState.reset 0x300000000#35))).map State.output =
      some (some ⟨.noEvent, .noteOff, .noEvent⟩) := by decide
/-- R174: OTHER is no tick. -/
theorem test_other : nextOf (step (at_ S0 ChipState.reset 0x60000DEAD#35)) = some ⟨[], S0, ChipState.reset, none⟩ := by
  decide
/-- R230: a reset item restores RESET_STATE and keeps what is to come. -/
theorem test_reset_step : nextOf (step ⟨[.reset, .command 0x080#35], S0, S0, none⟩) =
    some { State.reset with input := [.command 0x080#35] } := by decide
/-- R186: an empty stream stops the machine. -/
theorem test_end_of_stream : step State.reset = .fault .streamExhausted := rfl

/-! ### Detector and pitch at the vectors' clock, 3579545 Hz (sections 2.2, 2.3, 3.2) -/

/-- The clock the spec's vectors use; no claim of the spec (R10). -/
def vectorClock : Nat := 3579545

theorem test_detect_silent_and_off :
    detectTone vectorClock ⟨100#10, 15#4⟩ ⟨200#10, 15#4⟩ = .noEvent ∧
    detectTone vectorClock ⟨254#10, 3#4⟩ ⟨508#10, 15#4⟩ = .noteOff ∧
    detectTone vectorClock ⟨77#10, 14#4⟩ ⟨77#10, 15#4⟩ = .noteOff ∧
    detectTone vectorClock ⟨254#10, 2#4⟩ ⟨254#10, 9#4⟩ = .noEvent := by decide
theorem test_detect_on :
    detectTone vectorClock ⟨254#10, 15#4⟩ ⟨254#10, 0#4⟩ = .noteOn (some 0) ∧
    detectTone vectorClock ⟨100#10, 15#4⟩ ⟨127#10, 14#4⟩ = .noteOn (some 12) ∧
    detectTone vectorClock ⟨500#10, 0#4⟩ ⟨496#10, 0#4⟩ = .noteOn (some (-12)) ∧
    detectTone vectorClock ⟨0#10, 15#4⟩ ⟨0#10, 0#4⟩ = .noteOn none ∧
    detectTone vectorClock ⟨254#10, 0#4⟩ ⟨0#10, 0#4⟩ = .noteOn none := by decide
theorem test_pitch_vectors :
    [0, 1, 2, 3, 8, 22, 127, 128, 254, 480, 512, 987, 988, 1023].map (noteOf vectorClock) =
      [none, some 96, some 84, some 77, some 60, some 42, some 12, some 12, some 0, some (-11), some (-12), some (-23),
        some (-24), some (-24)] := by decide
theorem test_pitch_exact_clock :
    [256, 128, 512, 1].map (noteOf 3604480) = [some 0, some 12, some (-12), some 96] := by decide
/-- Program P2's tick: NoteOff, note 43 of divider 21, note -24 of divider 1008, as the port carries them. -/
theorem test_tick_port :
    ((⟨[], ⟨⟨0#10, 15#4⟩, ⟨0x015#10, 0#4⟩, ⟨0x3F0#10, 0#4⟩, ⟨3#4, 15#4⟩, .t3⟩, ChipState.reset, none⟩ : State).tick
      vectorClock).eventPort = ⟨true, .noteOff, .noteOn true 43#8, .noteOn true 0xE8#8⟩ := by decide
theorem test_encode_pitch : encodePitch (some 0) = .noteOn true 0x00#8 ∧ encodePitch (some (-24)) = .noteOn true 0xE8#8 ∧
    encodePitch (some 96) = .noteOn true 0x60#8 ∧ encodePitch none = .noteOn false 0#8 := by decide
theorem test_serialize : (EventBundle.mk (.noteOn none) .noEvent .noteOff).serialize =
    [⟨.t1, .noteOn none⟩, ⟨.t3, .noteOff⟩] := by decide

/-! ### Witnesses: the hypotheses of each statement are met together, at the boundaries of its clauses -/

theorem witness_LatchByteFields : (0x7F#8 : RawWrite).toNat < 128 ∧ 128 ≤ (0x80#8 : RawWrite).toNat := by decide
theorem witness_EncodeOfDecodeClearsIgnoredBits :
    (CommandWord.kind 0x0FFFFFFFF#35 = 0#3 ∧ (0x0FFFFFFFF#35).getLsbD 7 = true) ∧
    (CommandWord.kind 0x0FFFFFF7F#35 = 0#3 ∧ (0x0FFFFFF7F#35).getLsbD 7 = false) ∧
    CommandWord.kind 0x1FFFFFFFF#35 = 1#3 ∧ CommandWord.kind 0x2FFFFFFFF#35 = 2#3 ∧
    CommandWord.kind 0x3FFFFFFFF#35 = 3#3 ∧ (0x400000000#35).getLsbD 34 = true := by decide
theorem witness_DisassembledLineAssemblesBack :
    CommandWord.kind 0x0FFFFFF7F#35 = 0#3 ∧ CommandWord.kind 0x1FFFFFFFF#35 = 1#3 ∧
    CommandWord.kind 0x2FFFFFFFF#35 = 2#3 ∧ CommandWord.kind 0x3FFFFFFFF#35 = 3#3 ∧
    (0x7FFFFFFFF#35).getLsbD 34 = true := by decide
theorem witness_StepRunsDecodedCommand : (at_ S0 S0 0x080#35).input = .command 0x080#35 :: [] := rfl
theorem witness_FetchedWordRunsNext :
    decodeTableWord 40 0x7FFFFFFFF = some .other ∧ decodeTableWord 40 0 = some (.data 0#6) := by decide
theorem witness_ResetStepForgetsThePast : (⟨[.reset], S0, S0, none⟩ : State).input = .reset :: [] := rfl
theorem witness_StepStopsOnlyAtEndOfStream : State.reset.input = [] ∧ (at_ S0 S0 0#35).input ≠ [] := by decide
theorem witness_FrequencyLowWriteResult : (0x80#8 : RawWrite).toNat / 16 = 8 + 2 * (ToneChannel.t1.number - 1) ∧
    (0xAF#8 : RawWrite).toNat / 16 = 8 + 2 * (ToneChannel.t2.number - 1) ∧
    (0xCF#8 : RawWrite).toNat / 16 = 8 + 2 * (ToneChannel.t3.number - 1) := by decide
theorem witness_AttenuationWriteResult : (0x90#8 : RawWrite).toNat / 16 = 9 + 2 * (ToneChannel.t1.number - 1) ∧
    (0xBF#8 : RawWrite).toNat / 16 = 9 + 2 * (ToneChannel.t2.number - 1) ∧
    (0xDF#8 : RawWrite).toNat / 16 = 9 + 2 * (ToneChannel.t3.number - 1) := by decide
theorem witness_DataWriteResult : (0x7F#8 : RawWrite).toNat < 128 := by decide
theorem witness_DividerAssembledFromTwoBytes :
    (0xA0#8 : RawWrite).toNat / 16 = 8 + 2 * (ToneChannel.t2.number - 1) ∧
    (0x7F#8 : RawWrite).toNat < 128 ∧ S0.latch = .t2 := by decide
theorem witness_RegisterWriteFoldsItsByte : IsRegWriteWord 0x0FFFFFFFF#35 := by decide
theorem witness_AttenuationAndNoiseBytesLeaveThePair :
    128 ≤ (0xFF#8 : RawWrite).toNat ∧ (0xFF#8 : RawWrite).toNat / 16 ≠ 8 ∧ (0xFF#8 : RawWrite).toNat / 16 ≠ 10 ∧
    (0xFF#8 : RawWrite).toNat / 16 ≠ 12 ∧ (0x7F#8 : RawWrite).toNat < 128 := by decide
theorem witness_TonePairWritesWholeDivider :
    (⟨[.command 0x0CF#35, .command 0x03F#35, .reset], S0, S0, none⟩ : State).input =
      commands ((PseudoLine.tone .t3 (1023#10 : Freq).toNat).expand.map assemble) ++ [.reset] := by decide

/-- A next state in which each kind of register has changed, for the clauses about writers. -/
theorem witness_RegistersHaveOnlyTheirWriters :
    (∃ t, exec (.tlo3 0#4) (at_ S0 S0 0#35) = .next t ∧ (t.cur.tone .t3).freq ≠ (S0.tone .t3).freq) ∧
    (∃ t, exec (.data 0#6) (at_ S0 S0 0#35) = .next t ∧ (t.cur.tone .t2).freq ≠ (S0.tone .t2).freq) ∧
    (∃ t, exec (.tatt1 15#4) (at_ S0 S0 0#35) = .next t ∧ (t.cur.tone .t1).att ≠ (S0.tone .t1).att) ∧
    (∃ t, exec (.ntype 0#4) (at_ S0 S0 0#35) = .next t ∧ t.cur.noise.type ≠ S0.noise.type) ∧
    (∃ t, exec (.natt 0#4) (at_ S0 S0 0#35) = .next t ∧ t.cur.noise.att ≠ S0.noise.att) :=
  ⟨⟨_, rfl, by decide⟩, ⟨_, rfl, by decide⟩, ⟨_, rfl, by decide⟩, ⟨_, rfl, by decide⟩, ⟨_, rfl, by decide⟩⟩
theorem witness_LatchWrittenByTloReadByData :
    (∃ t, exec (.tlo1 5#4) (at_ S0 S0 0#35) = .next t ∧ t.cur.latch ≠ S0.latch) ∧ ∀ h, Instr.wait735 ≠ .data h :=
  ⟨⟨_, rfl, by decide⟩, fun _ h => by cases h⟩
theorem witness_SnapshotsHaveOnlyTheirWriters :
    (∃ t, step (at_ S0 S0 0x080#35) = .next t ∧ t.cur ≠ S0) ∧
    (∃ t, step (at_ S0 ChipState.reset 0x200000000#35) = .next t ∧ t.last ≠ ChipState.reset) ∧
    (∃ t, step ⟨[.reset], S0, S0, none⟩ = .next t ∧ t.cur ≠ S0 ∧ t.last ≠ S0) :=
  ⟨⟨_, rfl, by decide⟩, ⟨_, rfl, by decide⟩, ⟨_, rfl, by decide⟩⟩
/-- The clauses of TickResult: NoteOn by un-silencing and by a divider change, NoteOff, silent in both, audible and unchanged. -/
theorem witness_TickResult :
    let L : ChipState := ⟨⟨5#10, 15#4⟩, ⟨5#10, 14#4⟩, ⟨5#10, 0#4⟩, ⟨0#4, 0#4⟩, .t1⟩
    let C : ChipState := ⟨⟨5#10, 14#4⟩, ⟨6#10, 15#4⟩, ⟨6#10, 14#4⟩, ⟨0#4, 0#4⟩, .t1⟩
    let s := at_ C L 0#35
    let s' := at_ C C 0#35
    ((s.cur.tone .t1).att ≠ 15#4 ∧ (s.last.tone .t1).att = 15#4) ∧
    ((s.cur.tone .t3).att ≠ 15#4 ∧ (s.last.tone .t3).freq ≠ (s.cur.tone .t3).freq) ∧
    ((s.cur.tone .t2).att = 15#4 ∧ (s.last.tone .t2).att ≠ 15#4) ∧
    ((s'.cur.tone .t2).att = 15#4 ∧ (s'.last.tone .t2).att = 15#4) ∧
    ((s'.cur.tone .t3).att ≠ 15#4 ∧ (s'.last.tone .t3).att ≠ 15#4 ∧ (s'.last.tone .t3).freq = (s'.cur.tone .t3).freq) := by
  decide
theorem witness_OtherIsIgnored : (0x400000000#35).getLsbD 34 = true := by decide
theorem witness_ChannelEventsAreIndependent :
    let s := at_ S0 ChipState.reset 0#35
    let s' := at_ { ChipState.reset with tone1 := S0.tone1 } S0 0#35
    let u := { s' with last := ChipState.reset }
    s.last.tone .t1 = u.last.tone .t1 ∧ s.cur.tone .t1 = u.cur.tone .t1 ∧ s ≠ u ∧
    (∃ t b, exec .wait735 s = .next t ∧ t.output = some b) ∧ (∃ t b, exec .wait735 u = .next t ∧ t.output = some b) :=
  ⟨rfl, rfl, by decide, ⟨_, _, rfl, rfl⟩, ⟨_, _, rfl, rfl⟩⟩
theorem witness_NoteOnWithoutPitchIsEmitted :
    let s := at_ ChipState.reset
      { ChipState.reset with tone1 := ⟨0#10, 15#4⟩, tone2 := ⟨254#10, 0#4⟩ } 0x200000000#35
    ((∃ n, decode 0x200000000#35 = .wait n) ∨ decode 0x200000000#35 = .wait735 ∨ decode 0x200000000#35 = .wait882) ∧
    ((s.cur.tone .t1).att ≠ 15#4 ∧ (s.last.tone .t1).att = 15#4 ∧ (s.cur.tone .t1).freq = 0#10) ∧
    ((s.cur.tone .t2).att ≠ 15#4 ∧ (s.last.tone .t2).freq ≠ (s.cur.tone .t2).freq ∧ (s.cur.tone .t2).freq = 0#10) :=
  ⟨.inr (.inl rfl), by decide, by decide⟩
theorem witness_SecondTickIsEmpty :
    (Instr.wait 0#32).isTick = true ∧ Instr.wait882.isTick = true ∧
    ∃ t, exec (.wait 0#32) (at_ S0 ChipState.reset 0#35) = .next t := ⟨rfl, rfl, ⟨_, rfl⟩⟩
theorem witness_BundleExactlyAtTicks :
    (∃ t, step (at_ S0 S0 0x100000000#35) = .next t ∧ t.eventPort.strobe = true) ∧
    ∃ t, step (at_ S0 S0 0x400000000#35) = .next t ∧ t.eventPort.strobe = false :=
  ⟨⟨_, rfl, rfl⟩, ⟨_, rfl, rfl⟩⟩
theorem witness_TickSeesOnlyTheNetEffect :
    (∀ w ∈ [0x09F#35, 0x090#35, 0x60000DEAD#35], ¬ IsTickWord w) ∧ IsTickWord 0x1000002DF#35 ∧
    (⟨commands [0x09F#35, 0x090#35, 0x60000DEAD#35, 0x1000002DF#35], S0, S0, none⟩ : State).input =
      commands ([0x09F#35, 0x090#35, 0x60000DEAD#35] ++ [0x1000002DF#35]) ++ [] ∧
    { S0 with tone1 := ⟨0x2A5#10, 0#4⟩ } =
      ([0x09F#35, 0x090#35, 0x60000DEAD#35].foldl foldCommand (S0, S0)).1 :=
  ⟨by simp only [List.mem_cons, List.not_mem_nil, or_false, forall_eq_or_imp, forall_eq]; decide, by decide, rfl, rfl⟩
theorem witness_StreamIsLeftFold :
    (⟨commands [0x080#35, 0x200000000#35] ++ [.reset], S0, S0, none⟩ : State).input =
      commands [0x080#35, 0x200000000#35] ++ [.reset] := rfl
theorem witness_OneBundlePerTickAndNoneAtTheEnd :
    (⟨commands [0x200000000#35, 0x080#35], S0, S0, none⟩ : State).input = commands [0x200000000#35, 0x080#35] := rfl
theorem witness_FirstTickAfterReset : (at_ S0 ChipState.reset 0#35).last = State.reset.last := rfl
theorem witness_SplitDividerSoundsHalfUpdated :
    let s := at_ S0 S0 0#35
    s.last = s.cur ∧ (s.cur.tone .t1).att ≠ 15#4 ∧ (0#4 : Nibble).toNat ≠ (s.cur.tone .t1).freq.toNat % 16 ∧
    ∃ t, exec (tloOf .t1 0#4) s = .next t := ⟨rfl, by decide, by decide, ⟨_, rfl⟩⟩
theorem witness_PortCarriesEveryPitch :
    Config.ClockInRange 246400 ∧ Config.ClockInRange 22235472 ∧ noteOf 22235472 (0#10 : Freq).toNat = none ∧
    noteOf 22235472 (1#10 : Freq).toNat = some 127 :=
  ⟨⟨by simp [Config.clockMin], by simp [Config.clockMax]⟩, ⟨by simp [Config.clockMin], by simp [Config.clockMax]⟩,
    by decide, by decide⟩
theorem witness_NoteIsRoundedLogarithm : 0 < 3579545 ∧ 0 < 988 ∧ noteOf 3579545 988 = some (-24) :=
  ⟨by norm_num, by norm_num, by decide⟩
theorem witness_DoubledDividerIsAnOctaveLower : 0 < 246400 ∧ 0 < 1 ∧ noteOf 246400 1 = some 50 :=
  ⟨by norm_num, by norm_num, by decide⟩
theorem witness_LargerDividerIsNoHigher :
    0 < 246400 ∧ 0 < 1 ∧ 1 < 2 ∧ noteOf 246400 1 = some 50 ∧ noteOf 246400 2 = some 38 :=
  ⟨by norm_num, by norm_num, by norm_num, by decide, by decide⟩
theorem witness_NoteIsBracketedByPowersOfTwo :
    (2 : ℚ) ^ (2 * (12 : Int) - 1) < ((3604480 : ℚ) / (14080 * 128)) ^ 24 ∧
    ((3604480 : ℚ) / (14080 * 128)) ^ 24 < (2 : ℚ) ^ (2 * (12 : Int) + 1) ∧ noteOf 3604480 128 = some 12 := by
  refine ⟨by norm_num, by norm_num, by decide⟩
theorem witness_ReachableNotesFitTheRange :
    Config.ClockInRange 246400 ∧ noteOf 246400 (1023#10 : Freq).toNat = some (-70) :=
  ⟨⟨by simp [Config.clockMin], by simp [Config.clockMax]⟩, by decide⟩
theorem witness_ConcertDividerIsNoteZero : 246400 ≤ 246400 ∧ (2 * 246400 + 14080) / 28160 = 18 := by norm_num
/-- A state with a bundle on its port that agrees with its snapshots, and a step from it. -/
theorem witness_StepKeepsPortAgreement :
    let S : ChipState := { S0 with tone1 := ⟨0#10, 15#4⟩, tone3 := ⟨0#10, 15#4⟩ }
    let s : State := ⟨[.command 0x090#35], S, S, some ⟨.noteOff, .noEvent, .noteOff⟩⟩
    PortAgrees s ∧ ∃ t, step s = .next t := by
  refine ⟨fun b hb => ?_, ⟨_, rfl⟩⟩
  cases hb
  refine ⟨rfl, fun c => ?_⟩
  cases c
  · exact rfl
  · exact trivial
  · exact rfl

end Sys2Proof.Tests
end

section
/-! The three tick commands as one operation (42_note_detector.md R170 to R173). -/

namespace Sys2Proof.Machine

/-- The command kinds of R71 exclude each other: a tick is no register write. -/
theorem isRegWrite_of_isTick {i : Instr} (h : i.isTick = true) : i.isRegWrite = false := by
  cases i
  case wait | wait735 | wait882 | other => rfl
  all_goals cases h

/-- Every tick command is `tick()` on the state alone: nothing of the command, the sample count included, reaches the outcome
(R170 to R173). -/
theorem exec_of_isTick {i : Instr} (h : i.isTick = true) (s : State) : exec i s = .next (s.tick Config.clockHz) := by
  obtain ⟨hw, _⟩ | ⟨_, he⟩ | ⟨rfl, _⟩ := exec_cases i s
  · simp [isRegWrite_of_isTick h] at hw
  · exact he
  · cases h

/-- Any two tick commands have the same outcome from the same state (R173). -/
theorem exec_eq_of_isTick {i j : Instr} (hi : i.isTick = true) (hj : j.isTick = true) (s : State) :
    exec i s = exec j s := (exec_of_isTick hi s).trans (exec_of_isTick hj s).symm

/-- Settles O25: all four commands compared are ticks, and the fixed ticks name 735 and 882 samples by definition. -/
theorem tickCommandsAreEqual : Obligations.TickCommandsAreEqual := by
  intro s n m
  exact ⟨exec_eq_of_isTick rfl rfl s, exec_eq_of_isTick rfl rfl s, rfl, exec_eq_of_isTick rfl rfl s, rfl⟩

end Sys2Proof.Machine
end

section
/-! The reset state's registers (10_state.md R40, R43). -/

namespace Sys2Proof.Machine

/-- The three tone channels start alike (R39, R40). -/
@[simp] theorem ChipState.reset_tone (c : ToneChannel) : ChipState.reset.tone c = Tone.reset := by cases c <;> rfl

theorem Tone.reset_audible : Tone.reset.audible = true := (Tone.audible_iff _).2 (by decide)

/-- Settles O45: in CUR of the reset state every tone channel is `Tone.reset`, whose attenuation 0 is not `SILENT`. -/
theorem resetAttenuationsAndLatch : Obligations.ResetAttenuationsAndLatch := by
  refine ⟨fun c => ?_, rfl⟩
  have htone : State.reset.cur.tone c = Tone.reset := ChipState.reset_tone c
  rw [htone]
  exact ⟨rfl, Tone.reset_audible⟩

end Sys2Proof.Machine
end

section
/-! The meaning of each kind of command by name, for any channel (40_register_engine.md R103 to R111, R174), and the seven
kinds of command there are. -/

namespace Sys2Proof.Machine

open Sys2Proof.Safety

section Meanings
variable (c : ToneChannel) (d : Nibble) (h : High6) (s : State)

@[simp] theorem exec_tloOf : exec (tloOf c d) s = .next (s.writeCur (s.cur.writeFreqLow c d)) := by cases c <;> rfl
@[simp] theorem exec_tattOf : exec (tattOf c d) s = .next (s.writeCur (s.cur.writeAtt c d)) := by cases c <;> rfl
@[simp] theorem exec_ntype : exec (.ntype d) s = .next (s.writeCur (s.cur.writeNoiseType d)) := rfl
@[simp] theorem exec_natt : exec (.natt d) s = .next (s.writeCur (s.cur.writeNoiseAtt d)) := rfl
@[simp] theorem exec_data : exec (.data h) s = .next (s.writeCur (s.cur.writeFreqHigh h)) := rfl
@[simp] theorem exec_other : exec .other s = .next s.quiet := rfl

end Meanings

/-- Every command is one of seven kinds, the tone writes and the ticks taken together over their channels and durations. -/
theorem instr_kinds (i : Instr) :
    (∃ c d, i = tloOf c d) ∨ (∃ c d, i = tattOf c d) ∨ (∃ d, i = .ntype d) ∨ (∃ d, i = .natt d) ∨ (∃ h, i = .data h) ∨
    i.isTick = true ∨ i = .other := by
  cases i with
  | tlo1 d => exact .inl ⟨.t1, d, rfl⟩
  | tlo2 d => exact .inl ⟨.t2, d, rfl⟩
  | tlo3 d => exact .inl ⟨.t3, d, rfl⟩
  | tatt1 d => exact .inr (.inl ⟨.t1, d, rfl⟩)
  | tatt2 d => exact .inr (.inl ⟨.t2, d, rfl⟩)
  | tatt3 d => exact .inr (.inl ⟨.t3, d, rfl⟩)
  | ntype d => exact .inr (.inr (.inl ⟨d, rfl⟩))
  | natt d => exact .inr (.inr (.inr (.inl ⟨d, rfl⟩)))
  | data h => exact .inr (.inr (.inr (.inr (.inl ⟨h, rfl⟩))))
  | wait _ | wait735 | wait882 => exact .inr (.inr (.inr (.inr (.inr (.inl rfl)))))
  | other => exact .inr (.inr (.inr (.inr (.inr (.inr rfl)))))

end Sys2Proof.Machine
end

section
/-! The latch (10_state.md R26): which commands write it, and the two-run relation under which all but DATA do not read it. -/

namespace Sys2Proof.Machine

open Sys2Proof.Safety

/-- Only the frequency-low latch commands write the latch. -/
theorem exec_latch {i : Instr} {s t : State} (h : exec i s = .next t) :
    (∃ c d, i = tloOf c d) ∨ t.cur.latch = s.cur.latch := by
  obtain htlo | ⟨c, d, rfl⟩ | ⟨d, rfl⟩ | ⟨d, rfl⟩ | ⟨x, rfl⟩ | htick | rfl := instr_kinds i
  · exact .inl htlo
  case inr.inr.inr.inr.inr.inl =>
    rw [exec_of_isTick htick] at h
    cases h
    exact .inr (by rw [State.tick_cur])
  all_goals
    simp only [exec_tattOf, exec_ntype, exec_natt, exec_data, exec_other, Host.Outcome.next.injEq] at h
    subst h
    exact .inr (by simp)

/-- Two snapshots that hold the same in every register but the latch. -/
def ChipState.AgreeButLatch (S T : ChipState) : Prop := ∃ l, S = { T with latch := l }

namespace ChipState.AgreeButLatch

variable {S T S' T' : ChipState} (c : ToneChannel) (d : Nibble)

theorem refl (S : ChipState) : S.AgreeButLatch S := ⟨S.latch, rfl⟩

theorem tone (h : S.AgreeButLatch T) : S.tone c = T.tone c := by
  obtain ⟨l, rfl⟩ := h
  exact ChipState.tone_with_latch T c l

theorem noise (h : S.AgreeButLatch T) : S.noise = T.noise := by
  obtain ⟨l, rfl⟩ := h
  rfl

/-- TLO writes the latch and does not read it. -/
theorem writeFreqLow (h : S.AgreeButLatch T) : (S.writeFreqLow c d).AgreeButLatch (T.writeFreqLow c d) := by
  obtain ⟨l, rfl⟩ := h
  cases c <;> exact ⟨_, rfl⟩

theorem writeAtt (h : S.AgreeButLatch T) : (S.writeAtt c d).AgreeButLatch (T.writeAtt c d) := by
  obtain ⟨l, rfl⟩ := h
  cases c <;> exact ⟨l, rfl⟩

theorem writeNoiseType (h : S.AgreeButLatch T) : (S.writeNoiseType d).AgreeButLatch (T.writeNoiseType d) := by
  obtain ⟨l, rfl⟩ := h
  exact ⟨l, rfl⟩

theorem writeNoiseAtt (h : S.AgreeButLatch T) : (S.writeNoiseAtt d).AgreeButLatch (T.writeNoiseAtt d) := by
  obtain ⟨l, rfl⟩ := h
  exact ⟨l, rfl⟩

/-- The change detector sees no latch (R180). -/
theorem detectAll_eq (clock : Nat) (hlast : S.AgreeButLatch T) (hcur : S'.AgreeButLatch T') :
    detectAll clock S S' = detectAll clock T T' := by
  obtain ⟨l, rfl⟩ := hlast
  obtain ⟨l', rfl⟩ := hcur
  rfl

end ChipState.AgreeButLatch

/-- Two machines with the same deliveries to come whose snapshots differ at most in their latches. -/
structure State.AgreeButLatch (u t : State) : Prop where
  input : u.input = t.input
  cur : u.cur.AgreeButLatch t.cur
  last : u.last.AgreeButLatch t.last

/-- Folding snapshots that agree into CUR keeps the agreement. -/
theorem State.AgreeButLatch.writeCur {u t : State} {S T : ChipState} (h : u.AgreeButLatch t) (hST : S.AgreeButLatch T) :
    (u.writeCur S).AgreeButLatch (t.writeCur T) := ⟨h.input, hST, h.last⟩

/-- No command but DATA reads a latch: two machines that agree but for their latches answer next states with the same output
that agree so again (R26). -/
theorem exec_agreeButLatch {i : Instr} (hdata : ∀ h, i ≠ .data h) {s s' t : State} (hs : s'.AgreeButLatch s)
    (h : exec i s = .next t) : ∃ u, exec i s' = .next u ∧ u.output = t.output ∧ u.AgreeButLatch t := by
  obtain ⟨c, d, rfl⟩ | ⟨c, d, rfl⟩ | ⟨d, rfl⟩ | ⟨d, rfl⟩ | ⟨x, rfl⟩ | htick | rfl := instr_kinds i
  case inr.inr.inr.inr.inl => exact absurd rfl (hdata x)
  case inr.inr.inr.inr.inr.inl =>
    rw [exec_of_isTick htick] at h
    cases h
    exact ⟨_, exec_of_isTick htick s', congrArg some (hs.last.detectAll_eq _ hs.cur), hs.input, hs.cur, hs.cur⟩
  all_goals
    simp only [exec_tloOf, exec_tattOf, exec_ntype, exec_natt, exec_other, Host.Outcome.next.injEq] at h
    subst h
  · exact ⟨_, exec_tloOf c d s', rfl, hs.writeCur (hs.cur.writeFreqLow c d)⟩
  · exact ⟨_, exec_tattOf c d s', rfl, hs.writeCur (hs.cur.writeAtt c d)⟩
  · exact ⟨_, exec_ntype d s', rfl, hs.writeCur (hs.cur.writeNoiseType d)⟩
  · exact ⟨_, exec_natt d s', rfl, hs.writeCur (hs.cur.writeNoiseAtt d)⟩
  · exact ⟨_, exec_other s', rfl, hs.input, hs.cur, hs.last⟩

/-- Settles O22: the writers are those of `exec_latch`, and the state with another latch agrees with the old one but for
latches, which every command other than DATA keeps. -/
theorem latchWrittenByTloReadByData : Obligations.LatchWrittenByTloReadByData := by
  intro i s t h
  refine ⟨fun hne => (exec_latch h).resolve_right hne, fun hdata l => ?_⟩
  have hs : State.AgreeButLatch { s with cur := { s.cur with latch := l } } s := ⟨rfl, ⟨l, rfl⟩, .refl _⟩
  obtain ⟨u, hu, hout, hut⟩ := exec_agreeButLatch hdata hs h
  exact ⟨u, hu, hout, hut.input, fun c => hut.cur.tone c, hut.cur.noise, fun c => hut.last.tone c, hut.last.noise⟩

end Sys2Proof.Machine
end

section
/-! The step on a command word (20_memory.md R62). -/

namespace Sys2Proof.Machine

theorem step_of_command {s : State} {w : CommandWord} {rest : List PortInput} (h : s.input = .command w :: rest) :
    step s = exec (decode w) { s with input := rest } := by simp only [step, State.nextInput, h]

/-- Settles O7: `step_of_command`, for every state and word. -/
theorem stepRunsDecodedCommand : Obligations.StepRunsDecodedCommand := fun _ _ _ h => step_of_command h

end Sys2Proof.Machine
end

section
/-! The register engine on a raw byte: its format and register code as numbers (30_encoding.md R75 to R77), and the divider
writes among the cases of `apply` (20_memory.md R53). -/

namespace Sys2Proof

variable {b : RawWrite}

/-- The format bit splits the byte values at 128 (R75). -/
theorem RawWrite.isLatch_iff : RawWrite.isLatch b = true ↔ 128 ≤ b.toNat := by
  have hlt := b.isLt
  rw [RawWrite.isLatch, BitVec.getLsbD, Nat.testBit_eq_decide_div_mod_eq, decide_eq_true_iff]
  omega

/-- The register code is the low three bits of the byte's high digit (R76). -/
theorem RawWrite.toNat_reg : (RawWrite.reg b).toNat = b.toNat / 16 % 8 := by
  simp [RawWrite.reg, Nat.shiftRight_eq_div_pow]

theorem toNat_freqLowReg (c : ToneChannel) : (freqLowReg c).toNat = 2 * (c.number - 1) := by cases c <;> rfl

/-- A byte whose high digit is `8 + 2*(c-1)` is a latch/data byte for `c`'s frequency-low register (R76, R78). -/
theorem RawWrite.isLatch_and_reg_of_highDigit {c : ToneChannel} (h : b.toNat / 16 = 8 + 2 * (c.number - 1)) :
    RawWrite.isLatch b = true ∧ RawWrite.reg b = freqLowReg c := by
  have hnum : c.number ≤ 3 := by cases c <;> decide
  refine ⟨RawWrite.isLatch_iff.2 (by omega), BitVec.eq_of_toNat_eq ?_⟩
  rw [RawWrite.toNat_reg, toNat_freqLowReg]
  omega

theorem RawWrite.getLsbD_nibble {k : Nat} (hk : k < 4) : (RawWrite.nibble b).getLsbD k = b.getLsbD k := by
  simp [RawWrite.nibble, hk]

theorem RawWrite.getLsbD_high6 {k : Nat} (hk : k < 6) : (RawWrite.high6 b).getLsbD k = b.getLsbD k := by
  simp [RawWrite.high6, hk]

end Sys2Proof

namespace Sys2Proof.Machine

variable {b : RawWrite}

/-- A latch/data byte for `c`'s frequency-low register is the TLO write of `c` (R101, R103, R105, R107). -/
theorem ChipState.apply_of_freqLowReg (S : ChipState) {c : ToneChannel} (hb : RawWrite.isLatch b = true)
    (hr : RawWrite.reg b = freqLowReg c) : S.apply b = S.writeFreqLow c (RawWrite.nibble b) := by
  rw [ChipState.apply, if_pos hb, hr]
  cases c <;> rfl

/-- A data-only byte is the DATA write (R101, R111). -/
theorem ChipState.apply_of_dataOnly (S : ChipState) (hb : RawWrite.isLatch b = false) :
    S.apply b = S.writeFreqHigh (RawWrite.high6 b) := by
  rw [ChipState.apply, if_neg (by simp [hb])]

/-- Settles O16: the latch/data byte is a frequency-low write and the data-only byte a frequency-high write of the latched
channel; each reads back by its slice of the divider. -/
theorem dividerAssembledFromTwoBytes : Obligations.DividerAssembledFromTwoBytes := by
  refine fun S c b => ⟨fun hb k _ => ?_, fun hb hlatch k hk => ?_⟩
  · obtain ⟨hl, hr⟩ := RawWrite.isLatch_and_reg_of_highDigit hb
    rw [S.apply_of_freqLowReg hl hr, S.writeFreqLow_tone_self, getLsbD_freqWithLow]
    split
    next hlow => exact RawWrite.getLsbD_nibble hlow
    next => rfl
  · have hd : RawWrite.isLatch b = false := by
      rw [← Bool.not_eq_true, RawWrite.isLatch_iff]
      omega
    subst hlatch
    rw [S.apply_of_dataOnly hd, S.writeFreqHigh_tone_latch, getLsbD_freqWithHigh]
    split
    next => rfl
    next => exact RawWrite.getLsbD_high6 (by omega)

end Sys2Proof.Machine
end

section
/-! The stream as a fold (20_memory.md R62, R63): what one command word does to the pair (CUR, LAST), then a run of words. -/

namespace Sys2Proof.Safety

open Sys2Proof.Machine

section FoldCommand
variable (p : ChipState × ChipState) {w : CommandWord}

theorem foldCommand_of_regWrite (h : IsRegWriteWord w) :
    foldCommand p w = (p.1.apply (CommandWord.byte w), p.2) := if_pos h

theorem foldCommand_of_tick (h : IsTickWord w) : foldCommand p w = (p.1, p.1) := by
  have hreg : ¬ IsRegWriteWord w := by
    obtain hk | hk | hk := h <;> simp [IsRegWriteWord, hk]
  rw [foldCommand, if_neg hreg, if_pos h]

theorem foldCommand_of_other (hreg : ¬ IsRegWriteWord w) (htick : ¬ IsTickWord w) : foldCommand p w = p := by
  rw [foldCommand, if_neg hreg, if_neg htick]

/-- Only a tick word writes LAST. -/
theorem foldCommand_last (h : ¬ IsTickWord w) : (foldCommand p w).2 = p.2 := by
  by_cases hreg : IsRegWriteWord w
  · rw [foldCommand_of_regWrite p hreg]
  · rw [foldCommand_of_other p hreg h]

/-- Words without a tick among them leave LAST. -/
theorem foldl_foldCommand_last {ws : List CommandWord} (h : ∀ w ∈ ws, ¬ IsTickWord w) :
    (ws.foldl foldCommand p).2 = p.2 := by
  induction ws generalizing p with
  | nil => rfl
  | cons w ws ih =>
    obtain ⟨hw, hws⟩ := List.forall_mem_cons.1 h
    exact (ih (foldCommand p w) hws).trans (foldCommand_last p hw)

end FoldCommand

end Sys2Proof.Safety

namespace Sys2Proof.Machine

open Sys2Proof.Safety

/-- A register write by its byte: the decoded command folds `apply` of the byte into CUR (R102). -/
theorem exec_decodeByte (b : RawWrite) (s : State) : exec (decodeByte b) s = .next (s.writeCur (s.cur.apply b)) := by
  unfold decodeByte ChipState.apply
  split
  · obtain h | h | h | h | h | h | h | h := bitVec3_cases (RawWrite.reg b) <;> rw [h] <;> rfl
  · rfl

/-- A word of neither a register write nor a tick is OTHER (R71). -/
theorem decode_of_other {w : CommandWord} (hreg : ¬ IsRegWriteWord w) (htick : ¬ IsTickWord w) : decode w = .other := by
  obtain ⟨h, _⟩ | ⟨h, _⟩ | ⟨h, _⟩ | ⟨h, _⟩ | ⟨_, hd⟩ := decode_cases w
  · exact absurd h hreg
  · exact absurd (.inl h) htick
  · exact absurd (.inr (.inl h)) htick
  · exact absurd (.inr (.inr h)) htick
  · exact hd

/-- One command word acts on (CUR, LAST) as `foldCommand` does and leaves the deliveries to come. -/
theorem exec_decode_fold (w : CommandWord) (s : State) : ∃ t, exec (decode w) s = .next t ∧
    (t.cur, t.last) = foldCommand (s.cur, s.last) w ∧ t.input = s.input := by
  by_cases hreg : IsRegWriteWord w
  · rw [decode_of_regWrite hreg, exec_decodeByte, foldCommand_of_regWrite _ hreg]
    exact ⟨_, rfl, rfl, rfl⟩
  by_cases htick : IsTickWord w
  · rw [exec_of_isTick ((isTick_decode w).2 htick), foldCommand_of_tick _ htick]
    exact ⟨_, rfl, rfl, rfl⟩
  · rw [decode_of_other hreg htick, exec_other, foldCommand_of_other _ hreg htick]
    exact ⟨_, rfl, rfl, rfl⟩

/-- Running the command words next to come folds them over (CUR, LAST), consumes exactly them, and goes on from there. -/
theorem run_commands (ws : List CommandWord) {s : State} {rest : List PortInput} (h : s.input = commands ws ++ rest) :
    ∃ t : State, (∀ k, Sys2Proof.core.run (ws.length + k) s = Sys2Proof.core.run k t) ∧
      (t.cur, t.last) = ws.foldl foldCommand (s.cur, s.last) ∧ t.input = rest := by
  induction ws generalizing s with
  | nil => exact ⟨s, fun k => by rw [List.length_nil, Nat.zero_add], rfl, h⟩
  | cons w ws ih =>
    obtain ⟨u, hexec, hfold, hinput⟩ := exec_decode_fold w { s with input := commands ws ++ rest }
    obtain ⟨t, hrun, hpair, hrest⟩ := ih hinput
    refine ⟨t, fun k => ?_, ?_, hrest⟩
    · rw [List.length_cons, Nat.add_right_comm, run_succ_of_step _ ((step_of_command h).trans hexec), hrun]
    · rw [hpair, hfold, List.foldl_cons]

/-- Settles O32: `run_commands`, an induction over the words with `exec_decode_fold` for each, and no step after them. -/
theorem streamIsLeftFold : Obligations.StreamIsLeftFold := by
  intro s ws rest h
  obtain ⟨t, hrun, hpair, hinput⟩ := run_commands ws h
  exact ⟨t, hrun 0, hpair, hinput⟩

/-- Settles O31: the words before the tick fold into CUR and leave LAST, and the tick is one more step, from their fold. -/
theorem tickSeesOnlyTheNetEffect : Obligations.TickSeesOnlyTheNetEffect := by
  rintro s ws k rest C hws hk hin rfl
  rw [commands_append, List.append_assoc] at hin
  obtain ⟨t, hrun, hpair, hinput⟩ := run_commands ws hin
  have hcur : t.cur = (ws.foldl foldCommand (s.cur, s.last)).1 := congrArg Prod.fst hpair
  have hlast : t.last = s.last := (congrArg Prod.snd hpair).trans (foldl_foldCommand_last _ hws)
  have hstep : step t = .next (({ t with input := rest } : State).tick Config.clockHz) :=
    (step_of_command hinput).trans (exec_of_isTick ((isTick_decode k).2 hk) _)
  rw [hrun, run_succ_of_step 0 hstep, ← hcur, ← hlast]
  rfl

end Sys2Proof.Machine
end

section
/-! The decoded fields of a byte (30_encoding.md R75, R76). -/

namespace Sys2Proof

variable {b : RawWrite}

/-- The eight latch/data forms in the order of their register codes (R78). -/
def latchForms : List (Nibble → Instr) :=
  [.tlo1, .tatt1, .tlo2, .tatt2, .tlo3, .tatt3, .ntype, .natt]

/-- The other side of `RawWrite.isLatch_iff` (R75). -/
theorem RawWrite.isLatch_of_lt (hb : b.toNat < 128) : RawWrite.isLatch b = false := by
  rw [← Bool.not_eq_true, RawWrite.isLatch_iff]
  omega

theorem decodeByte_of_latch (hb : RawWrite.isLatch b = true) :
    decodeByte b = latchForms.getD (RawWrite.reg b).toNat .tlo1 (RawWrite.nibble b) := by
  rw [decodeByte, if_pos hb]
  obtain h | h | h | h | h | h | h | h := bitVec3_cases (RawWrite.reg b) <;> rw [h] <;> rfl

theorem decodeByte_of_dataOnly (hb : RawWrite.isLatch b = false) : decodeByte b = .data (RawWrite.high6 b) := by
  rw [decodeByte, if_neg (by simp [hb])]

/-- The operand is the byte's low digit (R76). -/
theorem RawWrite.nibble_eq_ofNat : RawWrite.nibble b = BitVec.ofNat 4 (b.toNat % 16) := by
  apply BitVec.eq_of_toNat_eq
  simp [RawWrite.nibble]

/-- Settles O2: 128 splits the formats, and from 128 on the byte's high digit is 8 and its register code. -/
theorem latchByteFields : Obligations.LatchByteFields := by
  refine fun b => ⟨fun hb => ?_, fun hb => ?_⟩
  · exact ⟨_, decodeByte_of_dataOnly (RawWrite.isLatch_of_lt hb)⟩
  · have hreg : (RawWrite.reg b).toNat = b.toNat / 16 - 8 := by
      have hlt := b.isLt
      rw [RawWrite.toNat_reg]
      omega
    rw [decodeByte_of_latch (RawWrite.isLatch_iff.2 hb), hreg, RawWrite.nibble_eq_ofNat]
    rfl

end Sys2Proof
end

section
/-! The opcode table (30_encoding.md R71, R78, R80): the rows and the decoder's choice of a form read the same seven
bits of a word, the kind and the byte's high digit. -/

namespace Sys2Proof

/-- The bits of a command word that some row fixes: its kind and its byte's high digit. -/
def fixedBits : CommandWord := 0x7000000F0#35

/-- The word with a given kind and high digit and every other bit zero. -/
def fixedWord (k : BitVec 3) (digit : BitVec 4) : CommandWord := k ++ 0#24 ++ digit ++ 0#4

theorem append_and_fixedBits (k : BitVec 3) (m : BitVec 24) (digit low : BitVec 4) :
    (k ++ m ++ digit ++ low) &&& fixedBits = fixedWord k digit := by
  have h : (k ++ m ++ digit ++ low) &&& (BitVec.allOnes 3 ++ 0#24 ++ BitVec.allOnes 4 ++ 0#4) =
      k ++ 0#24 ++ digit ++ 0#4 := by
    simp only [BitVec.and_append, BitVec.and_allOnes, BitVec.and_zero]
  exact h

variable (w : CommandWord)

/-- A word is its kind, the 24 bits between, and its byte's two digits (R70, R72, R76). -/
theorem append_fields :
    CommandWord.kind w ++ w.extractLsb 31 8 ++ w.extractLsb 7 4 ++ w.extractLsb 3 0 = w := by
  have hmiddle : CommandWord.kind w ++ w.extractLsb 31 8 = w.extractLsb 34 8 :=
    BitVec.extractLsb'_append_extractLsb'_eq_extractLsb' rfl
  have hdigit : w.extractLsb 34 8 ++ w.extractLsb 7 4 = w.extractLsb 34 4 :=
    BitVec.extractLsb'_append_extractLsb'_eq_extractLsb' rfl
  have hlow : w.extractLsb 34 4 ++ w.extractLsb 3 0 = w.extractLsb 34 0 :=
    BitVec.extractLsb'_append_extractLsb'_eq_extractLsb' rfl
  rw [hmiddle, hdigit, hlow]
  exact BitVec.extractLsb'_eq_self

theorem and_fixedBits : w &&& fixedBits = fixedWord (CommandWord.kind w) (w.extractLsb 7 4) :=
  calc w &&& fixedBits
    _ = (CommandWord.kind w ++ w.extractLsb 31 8 ++ w.extractLsb 7 4 ++ w.extractLsb 3 0) &&& fixedBits := by
      rw [append_fields]
    _ = fixedWord (CommandWord.kind w) (w.extractLsb 7 4) := append_and_fixedBits ..

/-- No row reads a bit outside `fixedBits`. -/
theorem OpcodeRow.holds_and_fixedBits {r : OpcodeRow} (hr : r ∈ opcodeTable) :
    r.holds (w &&& fixedBits) = r.holds w := by
  have hmask : ∀ r ∈ opcodeTable, fixedBits &&& r.mask = r.mask := by decide
  rw [OpcodeRow.holds, BitVec.and_assoc, hmask r hr, OpcodeRow.holds]

theorem kind_and_fixedBits : CommandWord.kind (w &&& fixedBits) = CommandWord.kind w := by
  simp only [CommandWord.kind, BitVec.extractLsb, BitVec.extractLsb'_and]
  exact BitVec.and_allOnes

theorem isLatch_byte_and_fixedBits :
    RawWrite.isLatch (CommandWord.byte (w &&& fixedBits)) = RawWrite.isLatch (CommandWord.byte w) := by
  simp [RawWrite.isLatch, CommandWord.byte, fixedBits]

theorem reg_byte_and_fixedBits :
    RawWrite.reg (CommandWord.byte (w &&& fixedBits)) = RawWrite.reg (CommandWord.byte w) := by
  simp only [RawWrite.reg, CommandWord.byte, BitVec.extractLsb, BitVec.extractLsb'_and]
  exact BitVec.and_allOnes

/-- The form a byte decodes to is chosen by its format bit and its register code, whatever the operand. -/
theorem mnemonic_decodeByte_congr {b b' : RawWrite} (hl : RawWrite.isLatch b = RawWrite.isLatch b')
    (hr : RawWrite.reg b = RawWrite.reg b') : (decodeByte b).mnemonic = (decodeByte b').mnemonic := by
  cases hb : RawWrite.isLatch b'
  case false => rw [decodeByte_of_dataOnly (hl.trans hb), decodeByte_of_dataOnly hb]; rfl
  case true =>
    rw [decodeByte_of_latch (hl.trans hb), decodeByte_of_latch hb, hr]
    obtain h | h | h | h | h | h | h | h := bitVec3_cases (RawWrite.reg b') <;> rw [h] <;> rfl

/-- The decoder's choice of a form reads no bit outside `fixedBits`. -/
theorem mnemonic_decode_and_fixedBits : (decode (w &&& fixedBits)).mnemonic = (decode w).mnemonic := by
  rw [decode, decode, kind_and_fixedBits]
  split
  · exact mnemonic_decodeByte_congr (isLatch_byte_and_fixedBits w) (reg_byte_and_fixedBits w)
  all_goals rfl

/-- One row for each of the 128 values of the fixed bits, and it is the decoded command's. -/
theorem rows_fixedWord : ∀ (k : BitVec 3) (digit : BitVec 4),
    (opcodeTable.filter fun r => r.holds (fixedWord k digit)).map OpcodeRow.mnemonic =
      [(decode (fixedWord k digit)).mnemonic] := by decide

/-- Exactly one row of the opcode table has the word's fixed bits, the one of the decoded command (R80). -/
theorem rows_of_word : (opcodeTable.filter fun r => r.holds w).map OpcodeRow.mnemonic = [(decode w).mnemonic] := by
  have hrows : (opcodeTable.filter fun r => r.holds w) = opcodeTable.filter fun r => r.holds (w &&& fixedBits) :=
    List.filter_congr fun r hr => (r.holds_and_fixedBits w hr).symm
  rw [hrows, ← mnemonic_decode_and_fixedBits, and_fixedBits, rows_fixedWord]

end Sys2Proof

namespace Sys2Proof.Machine

open Sys2Proof.Safety

/-- Every command answers a next state from every state (R80). -/
theorem exec_completes (i : Instr) (s : State) : Completes (exec i s) := by
  obtain ⟨_, S, h⟩ | ⟨_, h⟩ | ⟨_, h⟩ := exec_cases i s
  all_goals exact ⟨_, h⟩

/-- Settles O5: `rows_of_word` for the table, `exec_completes` for the run. -/
theorem everyWordHasOneMeaning : Obligations.EveryWordHasOneMeaning :=
  fun w => ⟨rows_of_word w, exec_completes (decode w)⟩

end Sys2Proof.Machine
end

section
/-! The nine register writes (40_register_engine.md R102 to R111): the bytes of each form, then its next state, whose frame
is that of the one `ChipState` operation it folds into CUR. -/

namespace Sys2Proof

open Sys2Proof.Safety

variable {b : RawWrite}

theorem RawWrite.nibble_eq_ofNat_toNat : RawWrite.nibble b = BitVec.ofNat 4 b.toNat := rfl

theorem RawWrite.high6_eq_ofNat_toNat : RawWrite.high6 b = BitVec.ofNat 6 b.toNat := rfl

theorem toNat_attReg (c : ToneChannel) : (attReg c).toNat = 2 * (c.number - 1) + 1 := by cases c <;> rfl

/-- A byte whose high digit is 8 and a register code is the form of that code (R75, R76, R78). -/
theorem decodeByte_of_highDigit {r : BitVec 3} (h : b.toNat / 16 = 8 + r.toNat) :
    decodeByte b = latchForms.getD r.toNat .tlo1 (BitVec.ofNat 4 b.toNat) := by
  have hlatch : RawWrite.isLatch b = true := RawWrite.isLatch_iff.2 (by omega)
  have hreg : (RawWrite.reg b).toNat = r.toNat := by
    have hr := r.isLt
    rw [RawWrite.toNat_reg]
    omega
  rw [decodeByte_of_latch hlatch, hreg, RawWrite.nibble_eq_ofNat_toNat]

theorem latchForms_freqLowReg (c : ToneChannel) (d : Nibble) :
    latchForms.getD (freqLowReg c).toNat .tlo1 d = tloOf c d := by cases c <;> rfl

theorem latchForms_attReg (c : ToneChannel) (d : Nibble) :
    latchForms.getD (attReg c).toNat .tlo1 d = tattOf c d := by cases c <;> rfl

theorem decodeByte_eq_tloOf {c : ToneChannel} (h : b.toNat / 16 = 8 + 2 * (c.number - 1)) :
    decodeByte b = tloOf c (BitVec.ofNat 4 b.toNat) := by
  rw [← toNat_freqLowReg] at h
  rw [decodeByte_of_highDigit h, latchForms_freqLowReg]

theorem decodeByte_eq_tattOf {c : ToneChannel} (h : b.toNat / 16 = 9 + 2 * (c.number - 1)) :
    decodeByte b = tattOf c (BitVec.ofNat 4 b.toNat) := by
  have hcode : b.toNat / 16 = 8 + (attReg c).toNat := by
    rw [toNat_attReg]
    omega
  rw [decodeByte_of_highDigit hcode, latchForms_attReg]

theorem decodeByte_eq_data (h : b.toNat < 128) : decodeByte b = .data (BitVec.ofNat 6 b.toNat) := by
  rw [decodeByte_of_dataOnly (RawWrite.isLatch_of_lt h), RawWrite.high6_eq_ofNat_toNat]

end Sys2Proof

namespace Sys2Proof.Machine

/-- Settles O12: the next state folds `writeFreqLow` into CUR, whose divider reads back by `getLsbD_freqWithLow`. -/
theorem frequencyLowWriteResult : Obligations.FrequencyLowWriteResult := by
  refine ⟨fun _ _ => decodeByte_eq_tloOf, fun c d s => ?_⟩
  refine ⟨_, exec_tloOf c d s, fun k _ => ?_, s.cur.writeFreqLow_latch c d, ?_,
    fun _ => s.cur.writeFreqLow_tone_of_ne c d, s.cur.writeFreqLow_noise c d, rfl, rfl, rfl⟩
  · rw [State.writeCur_cur, ChipState.writeFreqLow_tone_self, getLsbD_freqWithLow]
  · rw [State.writeCur_cur, ChipState.writeFreqLow_tone_self]

/-- Settles O13: the next state folds `writeAtt` into CUR. -/
theorem attenuationWriteResult : Obligations.AttenuationWriteResult := by
  refine ⟨fun _ _ => decodeByte_eq_tattOf, fun c d s => ?_⟩
  refine ⟨_, exec_tattOf c d s, ?_, ?_, s.cur.writeAtt_latch c d,
    fun _ => s.cur.writeAtt_tone_of_ne c d, s.cur.writeAtt_noise c d, rfl, rfl, rfl⟩
  all_goals rw [State.writeCur_cur, ChipState.writeAtt_tone_self]

/-- Settles O15: the next state folds `writeFreqHigh` into CUR, whose latched divider reads back by
`getLsbD_freqWithHigh`. -/
theorem dataWriteResult : Obligations.DataWriteResult := by
  refine ⟨fun _ => decodeByte_eq_data, fun h s => ?_⟩
  refine ⟨_, exec_data h s, fun k _ => ?_, ?_, s.cur.writeFreqHigh_latch h,
    fun _ => s.cur.writeFreqHigh_tone_of_ne h, s.cur.writeFreqHigh_noise h, rfl, rfl, rfl⟩
  · rw [State.writeCur_cur, ChipState.writeFreqHigh_tone_latch, getLsbD_freqWithHigh]
  · rw [State.writeCur_cur, ChipState.writeFreqHigh_tone_latch]

/-- Settles O17: the word decodes to its byte's form, which `exec_decodeByte` runs as `apply`. -/
theorem registerWriteFoldsItsByte : Obligations.RegisterWriteFoldsItsByte := by
  intro w s hw
  rw [decode_of_regWrite hw, exec_decodeByte]
  exact ⟨_, rfl, rfl, rfl, rfl, rfl⟩

/-- Settles O14: each command folds the write of its one noise field into CUR, which keeps every tone channel. -/
theorem noiseWriteResult : Obligations.NoiseWriteResult := by
  refine fun d s => ⟨⟨_, exec_ntype d s, ?_⟩, ⟨_, exec_natt d s, ?_⟩⟩
  · exact ⟨rfl, rfl, rfl, fun c => s.cur.writeNoiseType_tone c d, rfl, rfl, rfl⟩
  · exact ⟨rfl, rfl, rfl, fun c => s.cur.writeNoiseAtt_tone c d, rfl, rfl, rfl⟩

end Sys2Proof.Machine
end

section
/-! The pitch of divider 0 (41_pitch.md R141). -/

namespace Sys2Proof.Machine

@[simp] theorem noteOf_zero (clock : Nat) : noteOf clock 0 = none := rfl

/-- Settles O38: divider 0 takes the `none` branch, and every positive divider has the note of `noteOf_of_pos`. -/
theorem zeroDividerHasNoPitch : Obligations.ZeroDividerHasNoPitch := by
  intro clock d
  cases Nat.eq_zero_or_pos d with
  | inl hzero => simp [hzero]
  | inr hpos => simp [noteOf_of_pos hpos, hpos.ne']

end Sys2Proof.Machine
end

section
/-! The change detector (42_note_detector.md R174 to R180): the answer of each of its rules, the bundle as the detector's
alone, and the command that is no tick. -/

namespace Sys2Proof.Machine

section Rules
variable (clock : Nat) {last cur : Tone}

/-- Rule 1 (R176). -/
theorem detectTone_noteOn (hcur : cur.att ≠ Config.silent) (hnew : last.att = Config.silent ∨ last.freq ≠ cur.freq) :
    detectTone clock last cur = .noteOn (noteOf clock cur.freq.toNat) := by
  obtain ⟨_, _, h⟩ | ⟨hc, _⟩ | ⟨⟨hc, _⟩ | ⟨_, hl, hf⟩, _⟩ := detectTone_cases clock last cur
  · exact h
  · exact absurd hc hcur
  · exact absurd hc hcur
  · exact absurd hnew (not_or.2 ⟨hl, not_not.2 hf⟩)

/-- Rule 2 (R177). -/
theorem detectTone_noteOff (hcur : cur.att = Config.silent) (hlast : last.att ≠ Config.silent) :
    detectTone clock last cur = .noteOff := by
  obtain ⟨hc, _⟩ | ⟨_, _, h⟩ | ⟨⟨_, hl⟩ | ⟨hc, _⟩, _⟩ := detectTone_cases clock last cur
  · exact absurd hcur hc
  · exact h
  · exact absurd hl hlast
  · exact absurd hcur hc

/-- Rule 3 for a channel that stays silent, whatever its divider (R178). -/
theorem detectTone_noEvent_of_silent (hcur : cur.att = Config.silent) (hlast : last.att = Config.silent) :
    detectTone clock last cur = .noEvent := by
  obtain ⟨hc, _⟩ | ⟨_, hl, _⟩ | ⟨_, h⟩ := detectTone_cases clock last cur
  · exact absurd hcur hc
  · exact absurd hlast hl
  · exact h

/-- Rule 3 for a channel that stays audible at its divider, whatever its two attenuations (R178). -/
theorem detectTone_noEvent_of_audible (hcur : cur.att ≠ Config.silent) (hlast : last.att ≠ Config.silent)
    (hfreq : last.freq = cur.freq) : detectTone clock last cur = .noEvent := by
  obtain ⟨_, hl | hf, _⟩ | ⟨hc, _⟩ | ⟨_, h⟩ := detectTone_cases clock last cur
  · exact absurd hl hlast
  · exact absurd hfreq hf
  · exact absurd hc hcur
  · exact h

end Rules

/-- A bundle that a command outputs is the detector's on the LAST and CUR the command found (R175). -/
theorem exec_output_eq_detectAll {i : Instr} {s t : State} {b : EventBundle} (h : exec i s = .next t)
    (hb : t.output = some b) : b = detectAll Config.clockHz s.last s.cur := by
  obtain ⟨_, S, he⟩ | ⟨_, he⟩ | ⟨_, he⟩ := exec_cases i s
  all_goals
    rw [he] at h
    cases h
  · cases hb
  · exact (Option.some.inj hb).symm
  · cases hb

/-- Settles O24: every tick command is `tick()`, whose slots are `detect` on each channel, one rule per clause. -/
theorem tickResult : Obligations.TickResult := by
  intro i s hi
  have htick : i.isTick = true := by
    obtain ⟨_, rfl⟩ | rfl | rfl := hi
    all_goals rfl
  refine ⟨_, _, exec_of_isTick htick s, s.tick_cur _, s.tick_last _, s.tick_input _, s.tick_output _, fun c => ?_⟩
  rw [detectAll_slot]
  exact ⟨fun ⟨hcur, hnew⟩ => detectTone_noteOn _ hcur hnew,
    fun ⟨hcur, hlast⟩ => detectTone_noteOff _ hcur hlast,
    fun ⟨hcur, hlast⟩ => detectTone_noEvent_of_silent _ hcur hlast,
    fun ⟨hcur, hlast, hfreq⟩ => detectTone_noEvent_of_audible _ hcur hlast hfreq⟩

/-- Settles O27: both bundles are the detector's, whose slot for a channel is a function of the channel's own registers
(`detectAll_slot`). -/
theorem channelEventsAreIndependent : Obligations.ChannelEventsAreIndependent := by
  intro i c s s' t t' b b' hlast hcur h h' hb hb'
  rw [exec_output_eq_detectAll h hb, exec_output_eq_detectAll h' hb', detectAll_slot, detectAll_slot, hlast, hcur]

/-- A word with bit 34 set is of none of the kinds 0 to 3 (R71). -/
theorem decode_of_bit34 {w : CommandWord} (h : w.getLsbD 34 = true) : decode w = .other := by
  have hbit : (CommandWord.kind w).getLsbD 2 = true := by simp [CommandWord.kind, h]
  obtain ⟨hk, _⟩ | ⟨hk, _⟩ | ⟨hk, _⟩ | ⟨hk, _⟩ | ⟨_, hd⟩ := decode_cases w
  case inr.inr.inr.inr => exact hd
  all_goals simp [hk] at hbit

/-- Settles O26: `decode_of_bit34` for the words, and OTHER is `quiet`. -/
theorem otherIsIgnored : Obligations.OtherIsIgnored := by
  refine ⟨fun _ => decode_of_bit34, fun s => ?_⟩
  exact ⟨_, exec_other s, s.quiet_cur, s.quiet_last, s.quiet_input, s.quiet_output⟩

end Sys2Proof.Machine
end

section
/-! No command raises anything (60_exceptions.md R210). -/

namespace Sys2Proof.Machine

/-- Settles O11: `exec_completes`, since a command of each kind of `exec_cases` (a write, a tick, OTHER) has a next state. -/
theorem everyCommandCompletes : Obligations.EveryCommandCompletes := exec_completes

end Sys2Proof.Machine
end

section
/-! Encoding and decoding as inverses (30_encoding.md sections 1, 2 and 5): every form decodes back from its word. -/

namespace Sys2Proof

@[simp] theorem decode_regWriteWord (b : RawWrite) : decode (regWriteWord b) = decodeByte b := by
  rw [decode_of_regWrite (kind_regWriteWord b), byte_regWriteWord]

@[simp] theorem decodeByte_latchByte (r : BitVec 3) (d : Nibble) :
    decodeByte (latchByte r d) = latchForms.getD r.toNat .tlo1 d := by
  rw [decodeByte_of_latch (isLatch_latchByte r d), reg_latchByte, nibble_latchByte]

@[simp] theorem decodeByte_dataByte (h : High6) : decodeByte (dataByte h) = .data h := by
  rw [decodeByte_of_dataOnly (isLatch_dataByte h), high6_dataByte]

/-- Settles O3: a register write's word decodes as its byte, whose form is that of its register code; the other words
decode by their kind and payload. -/
theorem decodeOfEncode : Obligations.DecodeOfEncode := by
  intro i
  cases i with
  | wait n => rw [encode, decode_of_wait (kind_commandWord ..), payload_commandWord]
  | wait735 => exact decode_of_wait735 (kind_commandWord ..)
  | wait882 => exact decode_of_wait882 (kind_commandWord ..)
  | other => rfl
  | data h => rw [encode, decode_regWriteWord, decodeByte_dataByte]
  | tlo1 _ | tatt1 _ | tlo2 _ | tatt2 _ | tlo3 _ | tatt3 _ | ntype _ | natt _ =>
    rw [encode, decode_regWriteWord, decodeByte_latchByte]
    rfl

/-- Settles O1: the decoder reads each of the eleven literal words. -/
theorem listedWordsDecode : Obligations.ListedWordsDecode := by
  unfold Obligations.ListedWordsDecode
  decide

end Sys2Proof
end

section
/-! A byte and a word put together again from their fields (30_encoding.md R70, R72, R75 to R77), with the fields that the
decoder drops cleared. -/

namespace Sys2Proof

section Bytes
variable {b : RawWrite}

theorem latchByte_fields (hb : RawWrite.isLatch b = true) : latchByte (RawWrite.reg b) (RawWrite.nibble b) = b := by
  apply BitVec.eq_of_getLsbD_eq
  intro i hi
  have h7 : b.getLsbD 7 = true := hb
  simp only [latchByte, RawWrite.reg, RawWrite.nibble, BitVec.getLsbD_append, BitVec.getLsbD_extractLsb]
  interval_cases i <;> simp [h7]

/-- A data-only byte is its six divider bits exactly when its ignored bit 6 is clear (R77). -/
theorem dataByte_high6 (hb : RawWrite.isLatch b = false) (h6 : b.getLsbD 6 = false) :
    dataByte (RawWrite.high6 b) = b := by
  have hhigh : b.extractLsb 7 6 = 0#2 := by
    apply BitVec.eq_of_getLsbD_eq
    intro i hi
    interval_cases i
    · simpa using h6
    · simpa [RawWrite.isLatch] using hb
  have happend : b.extractLsb 7 6 ++ b.extractLsb 5 0 = b.extractLsb 7 0 :=
    BitVec.extractLsb'_append_extractLsb'_eq_extractLsb' rfl
  rw [hhigh] at happend
  exact happend.trans BitVec.extractLsb'_eq_self

theorem encode_latchForm (r : BitVec 3) (d : Nibble) :
    encode (latchForms.getD r.toNat .tlo1 d) = regWriteWord (latchByte r d) := by
  obtain rfl | rfl | rfl | rfl | rfl | rfl | rfl | rfl := bitVec3_cases r <;> rfl

theorem encode_decodeByte_of_latch (hb : RawWrite.isLatch b = true) : encode (decodeByte b) = regWriteWord b := by
  rw [decodeByte_of_latch hb, encode_latchForm, latchByte_fields hb]

theorem encode_decodeByte_of_dataOnly (hb : RawWrite.isLatch b = false) :
    encode (decodeByte b) = regWriteWord (dataByte (RawWrite.high6 b)) := by rw [decodeByte_of_dataOnly hb, encode]

end Bytes

section Words
variable {w : CommandWord}

theorem commandWord_fields (w : CommandWord) : commandWord (CommandWord.kind w) (CommandWord.payload w) = w := by
  have happend : w.extractLsb 34 32 ++ w.extractLsb 31 0 = w.extractLsb 34 0 :=
    BitVec.extractLsb'_append_extractLsb'_eq_extractLsb' rfl
  exact happend.trans BitVec.extractLsb'_eq_self

/-- A mask that covers the kind keeps it and masks the payload. -/
theorem and_commandWord_ones (w : CommandWord) (m : Payload) :
    w &&& commandWord 7#3 m = commandWord (CommandWord.kind w) (CommandWord.payload w &&& m) := by
  have h : (CommandWord.kind w ++ CommandWord.payload w) &&& (BitVec.allOnes 3 ++ m) =
      CommandWord.kind w ++ (CommandWord.payload w &&& m) := by
    rw [BitVec.and_append, BitVec.and_allOnes]
  exact (congrArg (· &&& commandWord 7#3 m) (commandWord_fields w)).symm.trans h

theorem payload_and_byteMask (w : CommandWord) : CommandWord.payload w &&& 0xFF#32 = 0#24 ++ CommandWord.byte w := by
  have happend : w.extractLsb 31 8 ++ CommandWord.byte w = CommandWord.payload w :=
    BitVec.extractLsb'_append_extractLsb'_eq_extractLsb' rfl
  rw [← happend, show 0xFF#32 = 0#24 ++ BitVec.allOnes 8 from rfl, BitVec.and_append, BitVec.and_zero, BitVec.and_allOnes]

theorem high6_byte (w : CommandWord) : RawWrite.high6 (CommandWord.byte w) = w.extractLsb 5 0 := by
  apply BitVec.eq_of_toNat_eq
  simp [RawWrite.high6, CommandWord.byte]

/-- Six bits over zeros to the payload's width, with the two ignored bits of a data-only byte among the zeros. -/
theorem zero_append_high6 (h : High6) : (0#26 ++ h : Payload) = 0#24 ++ dataByte h :=
  @BitVec.append_assoc _ _ _ 0#24 0#2 h

theorem payload_and_high6Mask (w : CommandWord) :
    CommandWord.payload w &&& 0x3F#32 = 0#24 ++ dataByte (RawWrite.high6 (CommandWord.byte w)) := by
  have happend : w.extractLsb 31 6 ++ w.extractLsb 5 0 = CommandWord.payload w :=
    BitVec.extractLsb'_append_extractLsb'_eq_extractLsb' rfl
  rw [← happend, high6_byte, show 0x3F#32 = 0#26 ++ BitVec.allOnes 6 from rfl, BitVec.and_append, BitVec.and_zero,
    BitVec.and_allOnes]
  exact zero_append_high6 _

/-- The word of a register write's byte alone has the bits above the byte cleared (R72). -/
theorem regWriteWord_byte (h : CommandWord.kind w = 0#3) : regWriteWord (CommandWord.byte w) = w &&& 0x7000000FF#35 := by
  rw [show 0x7000000FF#35 = commandWord 7#3 0xFF#32 from rfl, and_commandWord_ones, payload_and_byteMask, h, regWriteWord]

theorem regWriteWord_dataByte (h : CommandWord.kind w = 0#3) :
    regWriteWord (dataByte (RawWrite.high6 (CommandWord.byte w))) = w &&& 0x70000003F#35 := by
  rw [show 0x70000003F#35 = commandWord 7#3 0x3F#32 from rfl, and_commandWord_ones, payload_and_high6Mask, h, regWriteWord]

theorem commandWord_kind_zero (w : CommandWord) : commandWord (CommandWord.kind w) 0#32 = w &&& 0x700000000#35 := by
  rw [show 0x700000000#35 = commandWord 7#3 0#32 from rfl, and_commandWord_ones, BitVec.and_zero]

theorem isLatch_byte (w : CommandWord) : RawWrite.isLatch (CommandWord.byte w) = w.getLsbD 7 := by
  simp [RawWrite.isLatch, CommandWord.byte]

theorem encode_decode_of_wait (h : CommandWord.kind w = 1#3) : encode (decode w) = w := by
  rw [decode_of_wait h, encode, ← h, commandWord_fields]

/-- WAIT735 and WAIT882 keep their kind alone (R71). -/
theorem encode_decode_of_fixedWait (h : CommandWord.kind w = 2#3 ∨ CommandWord.kind w = 3#3) :
    encode (decode w) = w &&& 0x700000000#35 := by
  rw [← commandWord_kind_zero]
  obtain h | h := h
  · rw [decode_of_wait735 h, h, encode]
  · rw [decode_of_wait882 h, h, encode]

end Words

end Sys2Proof

namespace Sys2Proof.Machine

/-- Settles O4: the encoded word of each kind holds the fields the decoder keeps, and they are the word under the mask of
those fields. -/
theorem encodeOfDecodeClearsIgnoredBits : Obligations.EncodeOfDecodeClearsIgnoredBits := by
  refine fun w => ⟨fun hk h7 => ?_, fun hk h7 => ?_, encode_decode_of_wait, encode_decode_of_fixedWait, fun h => ?_⟩
  · rw [decode_of_regWrite hk, encode_decodeByte_of_latch ((isLatch_byte w).trans h7), regWriteWord_byte hk]
  · rw [decode_of_regWrite hk, encode_decodeByte_of_dataOnly ((isLatch_byte w).trans h7), regWriteWord_dataByte hk]
  · rw [decode_of_bit34 h]
    rfl

end Sys2Proof.Machine
end

section
/-! The disassembler and the assembler (30_encoding.md R84, R86). -/

namespace Sys2Proof

variable {w : CommandWord}

/-- Except for a data-only byte and OTHER, whose ignored bits the line keeps, a line's word is the encoded one. -/
theorem assemble_disassemble_eq_encode (hdata : ∀ h, decode w ≠ .data h) (hother : decode w ≠ .other) :
    assemble (disassemble w) = encode (decode w) := by
  rw [disassemble]
  cases hd : decode w with
  | data h => exact absurd hd (hdata h)
  | other => exact absurd hd hother
  | wait735 | wait882 => rfl
  | wait n => rw [assemble, BitVec.ofNat_toNat, BitVec.setWidth_eq, encode]
  | _ d => simp [assemble, encode, freqLowReg, attReg]

theorem disassemble_of_data {h : High6} (hd : decode w = .data h) :
    disassemble w = if (CommandWord.byte w).getLsbD 6 then .wr (CommandWord.byte w).toNat else .data h.toNat := by
  rw [disassemble, hd]

theorem disassemble_of_other (hd : decode w = .other) :
    disassemble w = .other (CommandWord.kind w).toNat (CommandWord.payload w).toNat := by
  rw [disassemble, hd]

/-- A latch/data byte is none of the two forms whose line keeps more than the decoder does. -/
theorem latchForm_ne (r : BitVec 3) (d : Nibble) :
    (∀ h, latchForms.getD r.toNat .tlo1 d ≠ .data h) ∧ latchForms.getD r.toNat .tlo1 d ≠ .other := by
  obtain rfl | rfl | rfl | rfl | rfl | rfl | rfl | rfl := bitVec3_cases r
  all_goals exact ⟨nofun, nofun⟩

/-- The line of a register write assembles to its whole byte, by `WR` where bit 6 of a data-only byte is set. -/
theorem assemble_disassemble_of_regWrite (hk : CommandWord.kind w = 0#3) :
    assemble (disassemble w) = regWriteWord (CommandWord.byte w) := by
  have hd := decode_of_regWrite hk
  cases hb : RawWrite.isLatch (CommandWord.byte w) with
  | true =>
    have hform := hd.trans (decodeByte_of_latch hb)
    obtain ⟨hdata, hother⟩ := latchForm_ne (RawWrite.reg (CommandWord.byte w)) (RawWrite.nibble (CommandWord.byte w))
    rw [assemble_disassemble_eq_encode (by rwa [hform]) (by rwa [hform]), hd, encode_decodeByte_of_latch hb]
  | false =>
    rw [disassemble_of_data (hd.trans (decodeByte_of_dataOnly hb))]
    split
    case isTrue => rw [assemble, BitVec.ofNat_toNat, BitVec.setWidth_eq]
    case isFalse h6 => rw [assemble, BitVec.ofNat_toNat, BitVec.setWidth_eq, dataByte_high6 hb (by simpa using h6)]

/-- The line of an OTHER word keeps its kind and payload (R84). -/
theorem assemble_disassemble_of_bit34 (h : w.getLsbD 34 = true) : assemble (disassemble w) = w := by
  rw [disassemble_of_other (Machine.decode_of_bit34 h), assemble, BitVec.ofNat_toNat, BitVec.ofNat_toNat,
    BitVec.setWidth_eq, BitVec.setWidth_eq, commandWord_fields]

theorem decodeByte_ne_other (b : RawWrite) : decodeByte b ≠ .other := by
  cases hb : RawWrite.isLatch b with
  | true => exact decodeByte_of_latch hb ▸ (latchForm_ne _ _).2
  | false => exact decodeByte_of_dataOnly hb ▸ nofun

/-- OTHER is the kinds 4 to 7 (R71). -/
theorem four_le_kind_of_other (h : decode w = .other) : 4 ≤ (CommandWord.kind w).toNat := by
  obtain ⟨_, hd⟩ | ⟨_, hd⟩ | ⟨_, hd⟩ | ⟨_, hd⟩ | ⟨hbit, _⟩ := decode_cases w
  case inl => exact absurd (hd.symm.trans h) (decodeByte_ne_other _)
  case inr.inr.inr.inr =>
    have hmsb : (CommandWord.kind w).msb = true := by simp [BitVec.msb, BitVec.getMsbD, CommandWord.kind, hbit]
    exact BitVec.toNat_ge_of_msb_true hmsb
  all_goals cases hd.symm.trans h

/-- Every operand of a line is a field of the word, so it has the range of the field's width (R84). -/
theorem wellFormed_disassemble (w : CommandWord) : (disassemble w).wellFormed = true := by
  cases hd : decode w with
  | other =>
    rw [disassemble_of_other hd]
    have hk := four_le_kind_of_other hd
    have hkind := (CommandWord.kind w).isLt
    have hpayload := (CommandWord.payload w).isLt
    simp only [AsmLine.wellFormed, Bool.and_eq_true, decide_eq_true_eq]
    omega
  | data h =>
    have hh := h.isLt
    have hbyte := (CommandWord.byte w).isLt
    rw [disassemble_of_data hd]
    split <;> (rw [AsmLine.wellFormed, decide_eq_true_eq]; omega)
  | wait n => simp [disassemble, hd, AsmLine.wellFormed, n.isLt]
  | wait735 | wait882 => rw [disassemble, hd]; rfl
  | _ d =>
    have hdigit : d.toNat ≤ 15 := Nat.le_of_lt_succ d.isLt
    simp [disassemble, hd, AsmLine.wellFormed, hdigit]

/-- Settles O6: the operands are fields of the word; a register write's line keeps the whole byte, OTHER's line the whole
word, and the ticks' lines are those of the encoded words. -/
theorem disassembledLineAssemblesBack : Obligations.DisassembledLineAssemblesBack := by
  refine fun w => ⟨wellFormed_disassemble w, fun hk => ?_, fun hk => ?_, fun hk => ?_, assemble_disassemble_of_bit34⟩
  · rw [assemble_disassemble_of_regWrite hk, regWriteWord_byte hk]
  · have hd := decode_of_wait hk
    rw [assemble_disassemble_eq_encode (by simp [hd]) (by simp [hd]), encode_decode_of_wait hk]
  · have hd : decode w = .wait735 ∨ decode w = .wait882 := hk.imp decode_of_wait735 decode_of_wait882
    rw [assemble_disassemble_eq_encode (by obtain hd | hd := hd <;> simp [hd]) (by obtain hd | hd := hd <;> simp [hd]),
      encode_decode_of_fixedWait hk]

end Sys2Proof
end

section
/-! The note as the integer bracketed by powers of two (41_pitch.md R144 and the characterization after it): it exists
because no odd power of two is a rational square, it is unique, and the laws of the note are facts about brackets. -/

namespace Sys2Proof.Machine

open Sys2Proof.Safety

/-- The ratio `x` of a divider's frequency to concert pitch, `clock / (14080 d)` (R140). -/
def concertRatio (clock d : Nat) : ℚ := clock / (14080 * d)

/-- `y` lies between the odd powers of two on the two sides of `2^(2n)`. -/
def BracketedAt (y : ℚ) (n : Int) : Prop := (2 : ℚ) ^ (2 * n - 1) < y ∧ y < (2 : ℚ) ^ (2 * n + 1)

section Brackets
variable {y y' : ℚ} {n n' k : Int}

/-- The brackets rise with what they bracket. -/
theorem BracketedAt.le_of_le (h : BracketedAt y n) (h' : BracketedAt y' n') (hle : y ≤ y') : n ≤ n' := by
  have hpow : (2 : ℚ) ^ (2 * n - 1) < 2 ^ (2 * n' + 1) := h.1.trans_le (hle.trans h'.2.le)
  have hexp : 2 * n - 1 < 2 * n' + 1 := (zpow_lt_zpow_iff_right₀ one_lt_two).1 hpow
  omega

theorem BracketedAt.unique (h : BracketedAt y n) (h' : BracketedAt y n') : n = n' :=
  le_antisymm (h.le_of_le h' le_rfl) (h'.le_of_le h le_rfl)

/-- A factor `4^k` moves the bracket by `k`. -/
theorem BracketedAt.mul_two_zpow (h : BracketedAt y n) : BracketedAt (y * 2 ^ (2 * k)) (n + k) := by
  have hpos : (0 : ℚ) < 2 ^ (2 * k) := by positivity
  have hlo : 2 * (n + k) - 1 = 2 * n - 1 + 2 * k := by ring
  have hhi : 2 * (n + k) + 1 = 2 * n + 1 + 2 * k := by ring
  rw [BracketedAt, hlo, hhi, zpow_add₀ two_ne_zero, zpow_add₀ two_ne_zero]
  exact ⟨mul_lt_mul_of_pos_right h.1 hpos, mul_lt_mul_of_pos_right h.2 hpos⟩

/-- An odd power of two is the square of no rational: else `√2` would be rational. -/
theorem sq_ne_two_zpow_odd (r : ℚ) (n : Int) : r ^ 2 ≠ 2 ^ (2 * n - 1) := by
  intro h
  have hsq : (r * 2 ^ (1 - n)) ^ 2 = 2 := by
    rw [mul_pow, h, ← zpow_natCast, ← zpow_mul, ← zpow_add₀ two_ne_zero]
    rw [show 2 * n - 1 + (1 - n) * ((2 : ℕ) : ℤ) = 1 by push_cast; ring, zpow_one]
  have hsquare : IsSquare (2 : ℚ) := ⟨r * 2 ^ (1 - n), by rw [← sq, hsq]⟩
  exact Nat.prime_two.prime.not_isSquare (Rat.isSquare_natCast_iff.1 hsquare)

/-- Rounding the leading bit position of a square to a bracket: the lower bound is strict since no square is an odd power. -/
theorem bracketedAt_of_floorLog2 {r : ℚ} {L : Int} (hlo : (2 : ℚ) ^ L ≤ r ^ 2) (hhi : r ^ 2 < 2 ^ (L + 1)) :
    BracketedAt (r ^ 2) ((L + 1) / 2) := by
  have hleft : (2 : ℚ) ^ (2 * ((L + 1) / 2) - 1) ≤ 2 ^ L := zpow_le_zpow_right₀ one_le_two (by omega)
  have hright : (2 : ℚ) ^ (L + 1) ≤ 2 ^ (2 * ((L + 1) / 2) + 1) := zpow_le_zpow_right₀ one_le_two (by omega)
  exact ⟨(hleft.trans hlo).lt_of_ne (sq_ne_two_zpow_odd r _).symm, hhi.trans_le hright⟩

end Brackets

section Notes
variable {clock clock' d d' : Nat}

/-- The exact integer method computes the bracket of `x^24` (R144). -/
theorem bracketedAt_noteNumber (hclock : 0 < clock) (hd : 0 < d) :
    BracketedAt (concertRatio clock d ^ 24) (noteNumber clock d) := by
  have hdiv : 0 < concertDivisor d := by
    rw [concertDivisor_eq]
    omega
  have hden : (0 : ℚ) < (concertDivisor d ^ 24 : ℕ) := by exact_mod_cast pow_pos hdiv 24
  obtain ⟨hlo, hhi⟩ := floorLog2Ratio_spec (pow_pos hclock 24) (pow_pos hdiv 24)
  have hratio : concertRatio clock d ^ 24 = (clock ^ 24 : ℕ) / (concertDivisor d ^ 24 : ℕ) := by
    rw [concertRatio, concertDivisor_eq]
    push_cast
    exact div_pow ..
  have hsquare : concertRatio clock d ^ 24 = (concertRatio clock d ^ 12) ^ 2 := by ring
  rw [← le_div_iff₀ hden, ← hratio, hsquare] at hlo
  rw [← div_lt_iff₀ hden, ← hratio, hsquare] at hhi
  rw [hsquare]
  exact bracketedAt_of_floorLog2 hlo hhi

theorem noteOf_eq_some_iff (hclock : 0 < clock) (hd : 0 < d) (n : Int) :
    noteOf clock d = some n ↔ BracketedAt (concertRatio clock d ^ 24) n := by
  rw [noteOf_of_pos hd, Option.some_inj]
  constructor
  · rintro rfl
    exact bracketedAt_noteNumber hclock hd
  · exact (bracketedAt_noteNumber hclock hd).unique

/-- Settles O40: `noteOf_eq_some_iff`. -/
theorem noteIsBracketedByPowersOfTwo : Obligations.NoteIsBracketedByPowersOfTwo :=
  fun _ _ n hclock hd => noteOf_eq_some_iff hclock hd n

/-- Settles O41: a doubled divider divides `x^24` by `4^12`. -/
theorem doubledDividerIsAnOctaveLower : Obligations.DoubledDividerIsAnOctaveLower := by
  intro clock d n hclock hd h
  have hratio : concertRatio clock (2 * d) ^ 24 = concertRatio clock d ^ 24 * 2 ^ (2 * (-12) : ℤ) := by
    have hhalf : concertRatio clock (2 * d) = concertRatio clock d * (1 / 2) := by
      simp only [concertRatio]
      push_cast
      ring
    rw [hhalf, mul_pow]
    norm_num
  rw [noteOf_eq_some_iff hclock (by omega), hratio]
  exact ((noteOf_eq_some_iff hclock hd n).1 h).mul_two_zpow

theorem concertRatio_nonneg : 0 ≤ concertRatio clock d := by
  rw [concertRatio]
  positivity

theorem concertRatio_le (hd : 0 < d) (hclock : clock ≤ clock') (hle : d ≤ d') :
    concertRatio clock d' ≤ concertRatio clock' d := by
  have hd' : (0 : ℚ) < d := by exact_mod_cast hd
  unfold concertRatio
  gcongr

/-- The note rises with the clock and falls with the divider. -/
theorem noteNumber_le (hpos : 0 < clock) (hd : 0 < d) (hclock : clock ≤ clock') (hle : d ≤ d') :
    noteNumber clock d' ≤ noteNumber clock' d :=
  (bracketedAt_noteNumber hpos (hd.trans_le hle)).le_of_le (bracketedAt_noteNumber (hpos.trans_le hclock) hd)
    (pow_le_pow_left₀ concertRatio_nonneg (concertRatio_le hd hclock hle) 24)

/-- Settles O42: `noteNumber_le` at one clock. -/
theorem largerDividerIsNoHigher : Obligations.LargerDividerIsNoHigher := by
  intro clock d d' n n' hclock hd hlt h h'
  rw [noteOf_of_pos hd, Option.some_inj] at h
  rw [noteOf_of_pos (hd.trans hlt), Option.some_inj] at h'
  subst h h'
  exact noteNumber_le hclock hd le_rfl hlt.le

end Notes

/-! ### The range of the reachable notes (R147) -/

theorem noteNumber_lowest : noteNumber 246400 1023 = -70 := by decide
theorem noteNumber_highest : noteNumber 22235472 1 = 127 := by decide

/-- Over the clock range a reachable note lies between the lowest clock's note of 1023 and the highest clock's note of 1. -/
theorem fitsNote_of_noteOf {clock : Nat} {f : Freq} {n : Int} (hclock : Config.ClockInRange clock)
    (h : noteOf clock f.toNat = some n) : FitsNote n := by
  obtain ⟨hmin, hmax⟩ : 246400 ≤ clock ∧ clock ≤ 22235472 := hclock
  have hf : 0 < f.toNat := by
    rw [Nat.pos_iff_ne_zero]
    intro hzero
    rw [hzero, noteOf_zero] at h
    cases h
  have hf' : f.toNat ≤ 1023 := Nat.le_of_lt_succ f.isLt
  rw [noteOf_of_pos hf, Option.some_inj] at h
  have hlo : noteNumber 246400 1023 ≤ n := h ▸ noteNumber_le (by norm_num) hf hmin hf'
  have hhi : n ≤ noteNumber 22235472 1 := h ▸ noteNumber_le (by omega) one_pos hmax hf
  rw [noteNumber_lowest] at hlo
  rw [noteNumber_highest] at hhi
  omega

/-- Settles O43: monotonicity puts every reachable note between the extremes, which the integer method evaluates. -/
theorem reachableNotesFitTheRange : Obligations.ReachableNotesFitTheRange :=
  ⟨fun _ _ _ => fitsNote_of_noteOf, by decide, congrArg some noteNumber_lowest, congrArg some noteNumber_highest,
    by decide⟩

/-- Settles O44: with `d ≥ 18` the ratio lies between 35/36 and 37/36, whose 24th powers lie between 1/2 and 2. -/
theorem concertDividerIsNoteZero : Obligations.ConcertDividerIsNoteZero := by
  intro clock hclock
  have hlo : 14080 * ((2 * clock + 14080) / 28160) ≤ clock + 7040 := by omega
  have hhi : clock ≤ 14080 * ((2 * clock + 14080) / 28160) + 7040 := by omega
  have hd : 18 ≤ (2 * clock + 14080) / 28160 := by omega
  generalize (2 * clock + 14080) / 28160 = d at hlo hhi hd
  have hlo' : (14080 * d : ℚ) ≤ clock + 7040 := by exact_mod_cast hlo
  have hhi' : (clock : ℚ) ≤ 14080 * d + 7040 := by exact_mod_cast hhi
  have hd' : (18 : ℚ) ≤ d := by exact_mod_cast hd
  have hden : (0 : ℚ) < 14080 * d := by linarith
  have hratio_lo : 35 / 36 ≤ concertRatio clock d := by
    rw [concertRatio, le_div_iff₀ hden]
    linarith
  have hratio_hi : concertRatio clock d ≤ 37 / 36 := by
    rw [concertRatio, div_le_iff₀ hden]
    linarith
  rw [noteOf_eq_some_iff (by omega) (by omega)]
  constructor
  · calc (2 : ℚ) ^ (2 * 0 - 1 : ℤ)
      _ < (35 / 36) ^ 24 := by norm_num
      _ ≤ concertRatio clock d ^ 24 := pow_le_pow_left₀ (by norm_num) hratio_lo 24
  · calc concertRatio clock d ^ 24
      _ ≤ (37 / 36) ^ 24 := pow_le_pow_left₀ concertRatio_nonneg hratio_hi 24
      _ < (2 : ℚ) ^ (2 * 0 + 1 : ℤ) := by norm_num

end Sys2Proof.Machine
end

section
/-! The note as a rounded logarithm (41_pitch.md, 00_scope.md section 4). -/

namespace Sys2Proof.Machine

/-- Rounding half away from zero gives the integer less than 1/2 away; the tie never arises for a note. -/
theorem sign_mul_floor_abs_of_near {v : ℝ} {n : Int} (hlo : n - 1 / 2 < v) (hhi : v < n + 1 / 2) :
    Real.sign v * (⌊|v| + 1 / 2⌋ : ℤ) = n := by
  obtain hneg | rfl | hpos := lt_trichotomy v 0
  · have hfloor : ⌊-v + 1 / 2⌋ = -n := by
      rw [Int.floor_eq_iff]
      push_cast
      constructor <;> linarith
    rw [Real.sign_of_neg hneg, abs_of_neg hneg, hfloor]
    push_cast
    ring
  · have hn : n = 0 := by
      have hlt : (n : ℝ) < 1 := by linarith
      have hgt : (-1 : ℝ) < n := by linarith
      have hlt' : n < 1 := by exact_mod_cast hlt
      have hgt' : -1 < n := by exact_mod_cast hgt
      omega
    rw [Real.sign_zero, hn, zero_mul, Int.cast_zero]
  · have hfloor : ⌊v + 1 / 2⌋ = n := by
      rw [Int.floor_eq_iff]
      constructor <;> linarith
    rw [Real.sign_of_pos hpos, abs_of_pos hpos, hfloor, one_mul]

/-- The bracket of `x^24` is, in logarithms, the interval of half-width 1/2 about the note. -/
theorem BracketedAt.near_logb {x : ℚ} {n : Int} (hx : 0 < x) (h : BracketedAt (x ^ 24) n) :
    (n - 1 / 2 : ℝ) < 12 * Real.logb 2 x ∧ 12 * Real.logb 2 x < (n + 1 / 2 : ℝ) := by
  have hx' : (0 : ℝ) < x := by exact_mod_cast hx
  have hlog : Real.logb 2 ((x : ℝ) ^ 24) = 24 * Real.logb 2 x := Real.logb_pow ..
  have hlog_zpow (k : ℤ) : Real.logb 2 (2 ^ k) = k := by
    rw [← Real.rpow_intCast, Real.logb_rpow two_pos (by norm_num)]
  obtain ⟨hlo, hhi⟩ := h
  rw [← @Rat.cast_lt _ _ ℝ] at hlo hhi
  push_cast at hlo hhi
  have hlo' := Real.logb_lt_logb one_lt_two (by positivity) hlo
  have hhi' := Real.logb_lt_logb one_lt_two (by positivity) hhi
  rw [hlog, hlog_zpow] at hlo' hhi'
  push_cast at hlo' hhi'
  constructor <;> linarith

/-- Settles O39: the bracket puts the real value less than 1/2 from the note, to which it rounds. -/
theorem noteIsRoundedLogarithm : Obligations.NoteIsRoundedLogarithm := by
  rintro clock d hclock hd
  refine ⟨noteNumber clock d, noteOf_of_pos hd, ?_⟩
  rintro v rfl
  have hpos : 0 < concertRatio clock d := by
    have hclock' : (0 : ℚ) < clock := by exact_mod_cast hclock
    have hd' : (0 : ℚ) < d := by exact_mod_cast hd
    rw [concertRatio]
    positivity
  have hratio : (clock / (32 * d) / 440 : ℝ) = concertRatio clock d := by
    rw [concertRatio]
    push_cast
    rw [div_div]
    ring_nf
  obtain ⟨hlo, hhi⟩ := (bracketedAt_noteNumber hclock hd).near_logb hpos
  rw [hratio]
  exact (sign_mul_floor_abs_of_near hlo hhi).symm

end Sys2Proof.Machine
end

section
/-! The register engine by its operations (40_register_engine.md sections 2 and 3): the laws of the divider slices and of
the five writes, and the operation each byte is. -/

namespace Sys2Proof.Machine

/-! ### The divider slices (R53) -/

theorem freqWithLow_freqWithLow (f : Freq) (d : Nibble) : freqWithLow (freqWithLow f d) d = freqWithLow f d := by
  apply BitVec.eq_of_getLsbD_eq
  intro i _
  simp only [getLsbD_freqWithLow]
  split <;> rfl

theorem freqWithHigh_freqWithHigh (f : Freq) (h : High6) : freqWithHigh (freqWithHigh f h) h = freqWithHigh f h := by
  apply BitVec.eq_of_getLsbD_eq
  intro i _
  simp only [getLsbD_freqWithHigh]
  split <;> rfl

theorem toNat_append_nibble (x : High6) (d : Nibble) : (x ++ d).toNat = x.toNat * 16 + d.toNat := by
  have hd : d.toNat < 2 ^ 4 := d.isLt
  rw [BitVec.toNat_append, ← Nat.shiftLeft_add_eq_or_of_lt hd, Nat.shiftLeft_eq]

/-- As numbers: the high six bits of the old divider, then the four new ones. -/
theorem toNat_freqWithLow (f : Freq) (d : Nibble) : (freqWithLow f d).toNat = f.toNat / 16 * 16 + d.toNat := by
  have hf : f.toNat < 1024 := f.isLt
  have hhigh : (f.extractLsb 9 4).toNat = f.toNat / 16 := by
    rw [BitVec.extractLsb_toNat, Nat.shiftRight_eq_div_pow]
    omega
  rw [← hhigh]
  exact toNat_append_nibble _ _

/-- The two slices are the whole divider: nothing of the old one is left. -/
theorem freqWithHigh_freqWithLow (f : Freq) (d : Nibble) (h : High6) : freqWithHigh (freqWithLow f d) h = h ++ d := by
  apply BitVec.eq_of_getLsbD_eq
  intro i _
  rw [getLsbD_freqWithHigh, getLsbD_freqWithLow, BitVec.getLsbD_append]
  split <;> rfl

/-- The operands that TONE gives its two commands are the slices of its divider (R85). -/
theorem ofNat_div_append_ofNat_mod (f : Freq) : BitVec.ofNat 6 (f.toNat / 16) ++ BitVec.ofNat 4 (f.toNat % 16) = f := by
  have hf : f.toNat < 1024 := f.isLt
  apply BitVec.eq_of_toNat_eq
  have happend := toNat_append_nibble (BitVec.ofNat 6 (f.toNat / 16)) (BitVec.ofNat 4 (f.toNat % 16))
  rw [BitVec.toNat_ofNat, BitVec.toNat_ofNat] at happend
  omega

/-! ### The writes -/

section Writes
variable (S : ChipState) (c : ToneChannel) (d : Nibble) (h : High6)

theorem ChipState.writeFreqLow_writeFreqLow : (S.writeFreqLow c d).writeFreqLow c d = S.writeFreqLow c d := by
  cases c <;> simp [ChipState.writeFreqLow, ChipState.withTone, ChipState.tone, freqWithLow_freqWithLow]

theorem ChipState.writeAtt_writeAtt : (S.writeAtt c d).writeAtt c d = S.writeAtt c d := by
  simp [ChipState.writeAtt]

theorem ChipState.writeFreqHigh_writeFreqHigh : (S.writeFreqHigh h).writeFreqHigh h = S.writeFreqHigh h := by
  simp [ChipState.writeFreqHigh, freqWithHigh_freqWithHigh]

@[simp] theorem ChipState.writeFreqLow_att (c' : ToneChannel) :
    ((S.writeFreqLow c d).tone c').att = (S.tone c').att := by
  by_cases hc : c' = c
  · rw [hc, S.writeFreqLow_tone_self]
  · rw [S.writeFreqLow_tone_of_ne c d hc]

@[simp] theorem ChipState.writeFreqHigh_att (c' : ToneChannel) :
    ((S.writeFreqHigh h).tone c').att = (S.tone c').att := by
  by_cases hc : c' = S.latch
  · rw [hc, S.writeFreqHigh_tone_latch]
  · rw [S.writeFreqHigh_tone_of_ne h hc]

@[simp] theorem ChipState.writeAtt_freq (c' : ToneChannel) : ((S.writeAtt c d).tone c').freq = (S.tone c').freq := by
  by_cases hc : c' = c
  · rw [hc, S.writeAtt_tone_self]
  · rw [S.writeAtt_tone_of_ne c d hc]

/-- An attenuation and a divider are separate fields of a channel. -/
theorem ChipState.writeAtt_writeFreqHigh : (S.writeAtt c d).writeFreqHigh h = (S.writeFreqHigh h).writeAtt c d := by
  obtain ⟨t₁, t₂, t₃, n, l⟩ := S
  cases c <;> cases l <;> rfl

theorem ChipState.writeNoiseType_writeFreqHigh :
    (S.writeNoiseType d).writeFreqHigh h = (S.writeFreqHigh h).writeNoiseType d := by
  obtain ⟨t₁, t₂, t₃, n, l⟩ := S
  cases l <;> rfl

theorem ChipState.writeNoiseAtt_writeFreqHigh :
    (S.writeNoiseAtt d).writeFreqHigh h = (S.writeFreqHigh h).writeNoiseAtt d := by
  obtain ⟨t₁, t₂, t₃, n, l⟩ := S
  cases l <;> rfl

/-- A frequency-low write and a frequency-high one write the whole divider of the channel that the first latches. -/
theorem ChipState.writeFreqLow_writeFreqHigh :
    (S.writeFreqLow c d).writeFreqHigh h =
      { S.withTone c ⟨h ++ d, (S.tone c).att⟩ with latch := c } := by
  rw [← freqWithHigh_freqWithLow (S.tone c).freq]
  cases c <;> rfl

end Writes

/-! ### The operation of a byte (R101) -/

section Bytes
variable {b : RawWrite} (S : ChipState)

/-- The eight register codes by what they name (R78). -/
theorem regCode_cases (r : BitVec 3) : (∃ c, r = freqLowReg c) ∨ (∃ c, r = attReg c) ∨ r = 6#3 ∨ r = 7#3 := by
  obtain rfl | rfl | rfl | rfl | rfl | rfl | rfl | rfl := bitVec3_cases r
  · exact .inl ⟨.t1, rfl⟩
  · exact .inr (.inl ⟨.t1, rfl⟩)
  · exact .inl ⟨.t2, rfl⟩
  · exact .inr (.inl ⟨.t2, rfl⟩)
  · exact .inl ⟨.t3, rfl⟩
  · exact .inr (.inl ⟨.t3, rfl⟩)
  · exact .inr (.inr (.inl rfl))
  · exact .inr (.inr (.inr rfl))

theorem ChipState.apply_of_attReg {c : ToneChannel} (hb : RawWrite.isLatch b = true) (hr : RawWrite.reg b = attReg c) :
    S.apply b = S.writeAtt c (RawWrite.nibble b) := by
  rw [ChipState.apply, if_pos hb, hr]
  cases c <;> rfl

theorem ChipState.apply_of_ntypeReg (hb : RawWrite.isLatch b = true) (hr : RawWrite.reg b = 6#3) :
    S.apply b = S.writeNoiseType (RawWrite.nibble b) := by
  rw [ChipState.apply, if_pos hb, hr]
  rfl

theorem ChipState.apply_of_nattReg (hb : RawWrite.isLatch b = true) (hr : RawWrite.reg b = 7#3) :
    S.apply b = S.writeNoiseAtt (RawWrite.nibble b) := by
  rw [ChipState.apply, if_pos hb, hr]
  rfl

/-- Settles O18: each of the five writes is idempotent, and a byte is the same write of the same operand in every state. -/
theorem applyIsIdempotent : Obligations.ApplyIsIdempotent := by
  intro S b
  cases hb : RawWrite.isLatch b with
  | false =>
    simp only [ChipState.apply_of_dataOnly _ hb]
    exact S.writeFreqHigh_writeFreqHigh _
  | true =>
    obtain ⟨c, hr⟩ | ⟨c, hr⟩ | hr | hr := regCode_cases (RawWrite.reg b)
    · simp only [ChipState.apply_of_freqLowReg _ hb hr]
      exact S.writeFreqLow_writeFreqLow c _
    · simp only [ChipState.apply_of_attReg _ hb hr]
      exact S.writeAtt_writeAtt c _
    · simp only [ChipState.apply_of_ntypeReg _ hb hr]
      rfl
    · simp only [ChipState.apply_of_nattReg _ hb hr]
      rfl

/-- Settles O19: the high digits excluded are the frequency-low codes; each other latch/data byte writes a field that is
neither a divider nor the latch, so it commutes with the data-only write. -/
theorem attenuationAndNoiseBytesLeaveThePair : Obligations.AttenuationAndNoiseBytesLeaveThePair := by
  intro S x D hx h8 h10 h12 hD
  have hlatch : RawWrite.isLatch x = true := RawWrite.isLatch_iff.2 hx
  simp only [ChipState.apply_of_dataOnly _ (RawWrite.isLatch_of_lt hD)]
  obtain ⟨c, hr⟩ | ⟨c, hr⟩ | hr | hr := regCode_cases (RawWrite.reg x)
  · have hcode : x.toNat / 16 % 8 = 2 * (c.number - 1) := by rw [← RawWrite.toNat_reg, hr, toNat_freqLowReg]
    have hlt := x.isLt
    have hnum : c.number = 1 ∨ c.number = 2 ∨ c.number = 3 := by cases c <;> decide
    omega
  · simp only [ChipState.apply_of_attReg _ hlatch hr]
    exact ⟨S.writeAtt_writeFreqHigh c _ _, S.writeAtt_latch c _⟩
  · simp only [ChipState.apply_of_ntypeReg _ hlatch hr]
    exact ⟨S.writeNoiseType_writeFreqHigh _ _, rfl⟩
  · simp only [ChipState.apply_of_nattReg _ hlatch hr]
    exact ⟨S.writeNoiseAtt_writeFreqHigh _ _, rfl⟩

end Bytes

end Sys2Proof.Machine
end

section
/-! The registers' writers (10_state.md sections 2 and 3) and the pair of commands of TONE (30_encoding.md R85). -/

namespace Sys2Proof.Machine

open Sys2Proof.Safety

theorem decode_assemble_tlo (c : ToneChannel) (n : Nat) :
    decode (assemble (.tlo c n)) = tloOf c (BitVec.ofNat 4 n) := by
  rw [assemble, decode_regWriteWord, decodeByte_latchByte, latchForms_freqLowReg]

theorem decode_assemble_data (n : Nat) : decode (assemble (.data n)) = .data (BitVec.ofNat 6 n) := by
  rw [assemble, decode_regWriteWord, decodeByte_dataByte]

/-- Settles O20: the two words decode to the frequency-low and the frequency-high write of the two slices of `f`, which
together are `f`. -/
theorem tonePairWritesWholeDivider : Obligations.TonePairWritesWholeDivider := by
  intro s c f rest hin
  have hlow : step s = .next (({ s with input := .command (assemble (.data (f.toNat / 16))) :: rest } : State).writeCur
      (s.cur.writeFreqLow c (BitVec.ofNat 4 (f.toNat % 16)))) := by
    rw [step_of_command hin, decode_assemble_tlo, exec_tloOf]
    rfl
  rw [run_succ_of_step 1 hlow, run_succ_of_step 0 ((step_of_command rfl).trans (by rw [decode_assemble_data, exec_data])),
    State.writeCur_cur, ChipState.writeFreqLow_writeFreqHigh, ofNat_div_append_ofNat_mod]
  rfl

/-- What a command that answers a next state leaves in CUR: one write of its kind, or the CUR it found. -/
theorem exec_cur_cases {i : Instr} {s t : State} (h : exec i s = .next t) :
    (∃ c d, i = tloOf c d ∧ t.cur = s.cur.writeFreqLow c d) ∨ (∃ c d, i = tattOf c d ∧ t.cur = s.cur.writeAtt c d) ∨
    (∃ d, i = .ntype d ∧ t.cur = s.cur.writeNoiseType d) ∨ (∃ d, i = .natt d ∧ t.cur = s.cur.writeNoiseAtt d) ∨
    (∃ x, i = .data x ∧ t.cur = s.cur.writeFreqHigh x) ∨ t.cur = s.cur := by
  obtain ⟨c, d, rfl⟩ | ⟨c, d, rfl⟩ | ⟨d, rfl⟩ | ⟨d, rfl⟩ | ⟨x, rfl⟩ | htick | rfl := instr_kinds i
  case inr.inr.inr.inr.inr.inl =>
    rw [exec_of_isTick htick] at h
    cases h
    simp
  all_goals
    simp only [exec_tloOf, exec_tattOf, exec_ntype, exec_natt, exec_data, exec_other, Host.Outcome.next.injEq] at h
    subst h
  · exact .inl ⟨c, d, rfl, rfl⟩
  · exact .inr (.inl ⟨c, d, rfl, rfl⟩)
  · exact .inr (.inr (.inl ⟨d, rfl, rfl⟩))
  · exact .inr (.inr (.inr (.inl ⟨d, rfl, rfl⟩)))
  · exact .inr (.inr (.inr (.inr (.inl ⟨x, rfl, rfl⟩))))
  · exact .inr (.inr (.inr (.inr (.inr rfl))))

section Writers
variable {i : Instr} {s t : State} (h : exec i s = .next t)
include h

theorem exec_freq_writer {c : ToneChannel} (hne : (t.cur.tone c).freq ≠ (s.cur.tone c).freq) :
    (∃ d, i = tloOf c d) ∨ (s.cur.latch = c ∧ ∃ x, i = .data x) := by
  obtain ⟨c', d, rfl, hcur⟩ | ⟨c', d, _, hcur⟩ | ⟨d, _, hcur⟩ | ⟨d, _, hcur⟩ | ⟨x, rfl, hcur⟩ | hcur := exec_cur_cases h
  case inl =>
    by_cases hc : c = c'
    · exact .inl ⟨d, by rw [hc]⟩
    · exact absurd (by rw [hcur, ChipState.writeFreqLow_tone_of_ne _ _ _ hc]) hne
  case inr.inr.inr.inr.inl =>
    by_cases hc : c = s.cur.latch
    · exact .inr ⟨hc.symm, x, rfl⟩
    · exact absurd (by rw [hcur, ChipState.writeFreqHigh_tone_of_ne _ _ hc]) hne
  all_goals exact absurd (by simp [hcur]) hne

theorem exec_att_writer {c : ToneChannel} (hne : (t.cur.tone c).att ≠ (s.cur.tone c).att) : ∃ d, i = tattOf c d := by
  obtain ⟨c', d, _, hcur⟩ | ⟨c', d, rfl, hcur⟩ | ⟨d, _, hcur⟩ | ⟨d, _, hcur⟩ | ⟨x, _, hcur⟩ | hcur := exec_cur_cases h
  case inr.inl =>
    by_cases hc : c = c'
    · exact ⟨d, by rw [hc]⟩
    · exact absurd (by rw [hcur, ChipState.writeAtt_tone_of_ne _ _ _ hc]) hne
  all_goals exact absurd (by simp [hcur]) hne

theorem exec_noiseType_writer (hne : t.cur.noise.type ≠ s.cur.noise.type) : ∃ d, i = .ntype d := by
  obtain ⟨c, d, _, hcur⟩ | ⟨c, d, _, hcur⟩ | ⟨d, hi, _⟩ | ⟨d, _, hcur⟩ | ⟨x, _, hcur⟩ | hcur := exec_cur_cases h
  case inr.inr.inl => exact ⟨d, hi⟩
  all_goals exact absurd (by simp [hcur]) hne

theorem exec_noiseAtt_writer (hne : t.cur.noise.att ≠ s.cur.noise.att) : ∃ d, i = .natt d := by
  obtain ⟨c, d, _, hcur⟩ | ⟨c, d, _, hcur⟩ | ⟨d, _, hcur⟩ | ⟨d, hi, _⟩ | ⟨x, _, hcur⟩ | hcur := exec_cur_cases h
  case inr.inr.inr.inl => exact ⟨d, hi⟩
  all_goals exact absurd (by simp [hcur]) hne

end Writers

/-- Settles O21: `exec_cur_cases` names what each command leaves in CUR, and a register's clause is the one write that does
not keep it. -/
theorem registersHaveOnlyTheirWriters : Obligations.RegistersHaveOnlyTheirWriters :=
  fun _ _ _ h => ⟨fun _ => exec_freq_writer h, fun _ => exec_att_writer h, exec_noiseType_writer h, exec_noiseAtt_writer h⟩

end Sys2Proof.Machine
end

section
/-! The step by its next delivery (00_scope.md R4, 20_memory.md R62, 42_note_detector.md R186), and what it writes. -/

namespace Sys2Proof.Machine

open Sys2Proof.Safety

theorem step_of_nil {s : State} (h : s.input = []) : step s = .fault .streamExhausted := by
  simp only [step, State.nextInput, h]

theorem step_of_reset {s : State} {rest : List PortInput} (h : s.input = .reset :: rest) :
    step s = .next ({ s with input := rest } : State).takeReset := by simp only [step, State.nextInput, h]

/-- Settles O10: the stream has no delivery, or a reset, or a command, which completes. -/
theorem stepStopsOnlyAtEndOfStream : Obligations.StepStopsOnlyAtEndOfStream := by
  refine fun s => ⟨step_of_nil, fun hne => ?_⟩
  match hin : s.input with
  | [] => exact absurd hin hne
  | .reset :: _ => exact ⟨_, step_of_reset hin⟩
  | .command w :: _ => exact step_of_command hin ▸ exec_completes _ _

/-- Settles O9: `step_of_reset`, with `takeReset` written out. -/
theorem resetStepForgetsThePast : Obligations.ResetStepForgetsThePast := fun _ _ => step_of_reset

/-- A table word with an instruction is a command word that decodes to it. -/
theorem commandOfNat_of_decodeTableWord {nbits w : Nat} {i : Instr} (h : decodeTableWord nbits w = some i) :
    ∃ cw, commandOfNat w = .ok cw ∧ decode cw = i := by
  unfold decodeTableWord decodeNat at h
  cases hw : commandOfNat w with
  | error e => simp [hw, Except.map] at h
  | ok cw => exact ⟨cw, rfl, by simpa [hw, Except.map] using h⟩

/-- Settles O8: the word placed is the next delivery, and the step decodes it with the rest of the state as it was. -/
theorem fetchedWordRunsNext : Obligations.FetchedWordRunsNext := by
  intro s nbits w i h
  obtain ⟨cw, hcw, rfl⟩ := commandOfNat_of_decodeTableWord h
  have hdeliver : s.withFetchWord nbits w = { s with input := .command cw :: s.input } := by
    rw [State.withFetchWord, State.deliver, hcw]
  rw [hdeliver, step_of_command rfl]

/-- Over one command word CUR changes only by a register write, and LAST only by a tick, which sets it to CUR. -/
theorem exec_decode_writers {w : CommandWord} {s t : State} (h : exec (decode w) s = .next t) :
    (t.cur ≠ s.cur → IsRegWriteWord w) ∧ (t.last ≠ s.last → IsTickWord w ∧ t.last = s.cur) := by
  obtain ⟨u, hu, hfold, _⟩ := exec_decode_fold w s
  obtain rfl : u = t := by simpa [hu] using h
  by_cases hreg : IsRegWriteWord w
  · rw [foldCommand_of_regWrite _ hreg, Prod.mk.injEq] at hfold
    exact ⟨fun _ => hreg, fun hne => absurd hfold.2 hne⟩
  by_cases htick : IsTickWord w
  · rw [foldCommand_of_tick _ htick, Prod.mk.injEq] at hfold
    exact ⟨fun hne => absurd hfold.1 hne, fun _ => ⟨htick, hfold.2⟩⟩
  · rw [foldCommand_of_other _ hreg htick, Prod.mk.injEq] at hfold
    exact ⟨fun hne => absurd hfold.1 hne, fun hne => absurd hfold.2 hne⟩

/-- Settles O23: a step is a reset or a command, and a command's writers are those of `exec_decode_writers`. -/
theorem snapshotsHaveOnlyTheirWriters : Obligations.SnapshotsHaveOnlyTheirWriters := by
  intro s t h
  obtain ⟨rest, hin, _⟩ | ⟨w, rest, hin, hexec⟩ := step_cases h
  · exact ⟨fun _ => ⟨rest, .inl hin⟩, fun _ => ⟨rest, .inl hin⟩⟩
  · obtain ⟨hcur, hlast⟩ := exec_decode_writers hexec
    exact ⟨fun hne => ⟨rest, .inr ⟨w, hin, hcur hne⟩⟩, fun hne => ⟨rest, .inr ⟨w, hin, hlast hne⟩⟩⟩

end Sys2Proof.Machine
end

section
/-! The bundles of a run (42_note_detector.md R183): one for each tick, and no other. -/

namespace Sys2Proof.Machine

open Sys2Proof.Safety

/-- A command outputs a bundle exactly when it is a tick. -/
theorem exec_output_isSome {i : Instr} {s t : State} (h : exec i s = .next t) : t.output.isSome = i.isTick := by
  obtain ⟨hw, S, he⟩ | ⟨htick, he⟩ | ⟨rfl, he⟩ := exec_cases i s
  all_goals
    rw [he] at h
    cases h
  · cases htick : i.isTick with
    | false => rfl
    | true => simp [isRegWrite_of_isTick htick] at hw
  · exact htick.symm
  · rfl

/-- Settles O30: the strobe is the bundle's presence, which a reset never has and a command has by `exec_output_isSome`. -/
theorem bundleExactlyAtTicks : Obligations.BundleExactlyAtTicks := by
  intro s t h
  rw [State.eventPort_strobe]
  obtain ⟨rest, hin, rfl⟩ | ⟨w, rest, hin, hexec⟩ := step_cases h
  · simp [hin]
  · rw [exec_output_isSome hexec, isTick_decode]
    constructor
    · exact fun htick => ⟨w, rest, hin, htick⟩
    · rintro ⟨w', rest', hin', htick⟩
      obtain ⟨rfl, rfl⟩ : w = w' ∧ rest = rest' := by simpa [hin] using hin'
      exact htick

theorem bundles_of_nil {s : State} (k : Nat) (h : s.input = []) : bundles k s = [] := by
  cases k with
  | zero => rfl
  | succ k => simp only [bundles, step_of_nil h]

theorem bundles_succ_of_step {s t : State} (k : Nat) (h : step s = .next t) :
    bundles (k + 1) s = t.output.toList ++ bundles k t := by simp only [bundles, h]

/-- A command word's step adds one bundle or none to those of the run, by whether it is a tick word. -/
theorem length_output_toList {w : CommandWord} {s t : State} (h : exec (decode w) s = .next t) :
    t.output.toList.length = (decide (IsTickWord w)).toNat := by
  have hsome : t.output.isSome = decide (IsTickWord w) := by
    rw [exec_output_isSome h, Bool.eq_iff_iff, isTick_decode, decide_eq_true_iff]
  rw [← hsome]
  cases t.output <;> rfl

/-- Settles O33: induction on the words, each adding its own bundle; past the end the run stops without one. -/
theorem oneBundlePerTickAndNoneAtTheEnd : Obligations.OneBundlePerTickAndNoneAtTheEnd := by
  intro s ws extra hin
  induction ws generalizing s with
  | nil => rw [bundles_of_nil _ hin, List.filter_nil, List.length_nil, List.length_nil]
  | cons w ws ih =>
    obtain ⟨t, hexec, _, hinput⟩ := exec_decode_fold w { s with input := commands ws }
    rw [List.length_cons, Nat.add_right_comm, bundles_succ_of_step _ ((step_of_command hin).trans hexec),
      List.length_append, ih t hinput, length_output_toList hexec, List.filter_cons]
    by_cases htick : IsTickWord w
    · simp [htick, Nat.add_comm]
    · simp [htick]

end Sys2Proof.Machine
end

section
/-! The tick on particular snapshots (42_note_detector.md, 70_reset_and_hazards.md sections 2 and 3). -/

namespace Sys2Proof.Machine

open Sys2Proof.Safety

/-- Settles O28: the rule 1 clause of `tickResult`, at divider 0, whose note is none. -/
theorem noteOnWithoutPitchIsEmitted : Obligations.NoteOnWithoutPitchIsEmitted := by
  intro i s c hi hcur hnew hfreq
  obtain ⟨t, b, hexec, _, _, _, hout, hslots⟩ := tickResult i s hi
  obtain ⟨hnoteOn, _⟩ := hslots c
  refine ⟨t, b, hexec, hout, (hnoteOn ⟨hcur, hnew⟩).trans ?_⟩
  rw [hfreq, BitVec.toNat_ofNat, Nat.zero_mod, noteOf_zero]

/-- A channel with the same registers in both snapshots has no event. -/
@[simp] theorem detectTone_self (clock : Nat) (u : Tone) : detectTone clock u u = .noEvent := by
  by_cases hu : u.att = Config.silent
  · exact detectTone_noEvent_of_silent clock hu hu
  · exact detectTone_noEvent_of_audible clock hu hu rfl

@[simp] theorem detectAll_self (clock : Nat) (S : ChipState) : detectAll clock S S = ⟨.noEvent, .noEvent, .noEvent⟩ := by
  simp [detectAll]

/-- Settles O29: after the first tick LAST is CUR, where the detector sees no change. -/
theorem secondTickIsEmpty : Obligations.SecondTickIsEmpty := by
  intro i j s t hi hj h
  rw [exec_of_isTick hi] at h
  cases h
  rw [exec_of_isTick hj, State.tick, State.tick_last, State.tick_cur, detectAll_self]

/-- Settles O34: after reset every channel is audible at divider 0, so rule 2 or rule 1 applies as the channel is silent or
at another divider. -/
theorem firstTickAfterReset : Obligations.FirstTickAfterReset := by
  intro n s hlast
  refine ⟨_, _, @exec_of_isTick (.wait n) rfl s, s.tick_output _, fun c => ?_⟩
  have hreset : s.last.tone c = Tone.reset := (congrArg (·.tone c) hlast).trans (ChipState.reset_tone c)
  have haudible : Tone.reset.att ≠ Config.silent := (Tone.audible_iff _).1 Tone.reset_audible
  rw [detectAll_slot, hreset]
  split
  next hsilent => exact detectTone_noteOff _ hsilent haudible
  next hcur =>
    split
    next hzero => exact detectTone_noEvent_of_audible _ hcur haudible hzero.symm
    next hfreq => exact detectTone_noteOn _ hcur (.inr (Ne.symm hfreq))

/-- Settles O35: after the TLO command the channel is audible at another divider than in LAST, so rule 1 sounds the divider
that the command left. -/
theorem splitDividerSoundsHalfUpdated : Obligations.SplitDividerSoundsHalfUpdated := by
  intro s t c d n hlast haudible hlow h
  rw [exec_tloOf] at h
  cases h
  refine ⟨_, _, @exec_of_isTick (.wait n) rfl _, State.tick_output .., ?_⟩
  have hfreq : (s.cur.tone c).freq ≠ freqWithLow (s.cur.tone c).freq d := by
    intro heq
    have hnat := congrArg BitVec.toNat heq
    rw [toNat_freqWithLow] at hnat
    omega
  rw [detectAll_slot, State.writeCur_last, State.writeCur_cur, ChipState.writeFreqLow_tone_self, hlast,
    ← toNat_freqWithLow]
  exact detectTone_noteOn _ haudible (.inr hfreq)

end Sys2Proof.Machine
end

section
/-! The event port (41_pitch.md R148, 42_note_detector.md R183). -/

namespace Sys2Proof.Machine

open Sys2Proof.Safety

/-- Eight bits carry the two's complement of every note of the port's range. -/
theorem toInt_ofInt_of_fitsNote {n : Int} (h : FitsNote n) : (BitVec.ofInt 8 n).toInt = n := by
  obtain ⟨hlo, hhi⟩ := h
  exact BitVec.toInt_ofInt_eq_self (by norm_num) (by simpa using hlo) (by simp; omega)

/-- Settles O36: a reachable note fits the port by `fitsNote_of_noteOf`. -/
theorem portCarriesEveryPitch : Obligations.PortCarriesEveryPitch := by
  refine fun clock f hclock => ⟨fun hnone => ?_, fun n hn => ?_⟩
  · rw [hnone]
    rfl
  · rw [hn]
    exact ⟨_, rfl, toInt_ofInt_of_fitsNote (fitsNote_of_noteOf hclock hn)⟩

theorem mem_slotEvent {c : ToneChannel} {u : Slot} {e : NoteEvent} :
    e ∈ slotEvent c u ↔ e.channel = c ∧ u = e.kind.slot := by
  obtain ⟨c', k⟩ := e
  cases u <;> cases k <;> simp [slotEvent, EventKind.slot, eq_comm]

theorem EventBundle.mem_serialize {b : EventBundle} {e : NoteEvent} :
    e ∈ b.serialize ↔ b.slot e.channel = e.kind.slot := by
  obtain ⟨c, k⟩ := e
  cases c <;> simp [EventBundle.serialize, EventBundle.slot, mem_slotEvent]

/-- A slot holds at most one event, so its list is ordered by any relation. -/
theorem pairwise_slotEvent (r : NoteEvent → NoteEvent → Prop) (c : ToneChannel) (u : Slot) :
    (slotEvent c u).Pairwise r := by
  cases u with
  | noEvent => exact .nil
  | noteOn _ | noteOff => exact List.pairwise_singleton ..

/-- Settles O37: membership slot by slot, and each slot's events come before those of the channels after it. -/
theorem serializedEventsAscend : Obligations.SerializedEventsAscend := by
  refine fun b => ⟨fun _ => EventBundle.mem_serialize, ?_⟩
  simp only [EventBundle.serialize, List.pairwise_append, pairwise_slotEvent, List.mem_append, mem_slotEvent, true_and]
  constructor
  · rintro e ⟨he, _⟩ e' ⟨he', _⟩
    rw [he, he']
    decide
  · rintro e (⟨he, _⟩ | ⟨he, _⟩) e' ⟨he', _⟩
    all_goals
      rw [he, he']
      decide

end Sys2Proof.Machine
end

section
/-! The agreement of the event port with the snapshots: it holds at reset and every step keeps it (10_state.md section 5,
42_note_detector.md R175 to R177, 41_pitch.md R147). -/

namespace Sys2Proof.Machine

open Sys2Proof.Safety

theorem portAgrees_of_output_none {s : State} (h : s.output = none) : PortAgrees s := by
  intro b hb
  rw [h] at hb
  cases hb

/-- The detector's answer agrees with the channel's registers in CUR, at a clock of the range. -/
theorem slotAgrees_detectTone (last cur : Tone) :
    SlotAgrees Config.clockHz cur (detectTone Config.clockHz last cur) := by
  obtain ⟨hcur, _, h⟩ | ⟨hcur, _, h⟩ | ⟨_, h⟩ := detectTone_cases Config.clockHz last cur
  all_goals rw [h]
  · exact ⟨hcur, rfl, fun _ => fitsNote_of_noteOf clockHz_inRange⟩
  · exact hcur
  · exact trivial

theorem portAgrees_tick (s : State) : PortAgrees (s.tick Config.clockHz) := by
  intro b hb
  rw [State.tick_output, Option.some_inj] at hb
  subst hb
  refine ⟨rfl, fun c => ?_⟩
  rw [detectAll_slot]
  exact slotAgrees_detectTone _ _

/-- Every command leaves the port in agreement: a tick by what the detector answers, the others with nothing on it. -/
theorem portAgrees_of_exec {i : Instr} {s t : State} (h : exec i s = .next t) : PortAgrees t := by
  obtain ⟨_, S, he⟩ | ⟨_, he⟩ | ⟨_, he⟩ := exec_cases i s
  all_goals
    rw [he] at h
    cases h
  · exact portAgrees_of_output_none rfl
  · exact portAgrees_tick s
  · exact portAgrees_of_output_none rfl

/-- Settles O47: a reset leaves nothing on the port, and a command agrees by `portAgrees_of_exec`, whatever stood there. -/
theorem stepKeepsPortAgreement : Obligations.StepKeepsPortAgreement := by
  intro s t _ h
  obtain ⟨_, _, rfl⟩ | ⟨_, _, _, hexec⟩ := step_cases h
  · exact portAgrees_of_output_none rfl
  · exact portAgrees_of_exec hexec

/-- Settles O48: nothing stands on the port at reset. -/
theorem resetHasPortAgreement : Obligations.ResetHasPortAgreement := portAgrees_of_output_none rfl

/-- Settles O46: every tone channel of the reset state is `Tone.reset`; the other fields are read off its definition. -/
theorem resetRemainingState : Obligations.ResetRemainingState :=
  ⟨fun c => congrArg Tone.freq (ChipState.reset_tone c), rfl, rfl, rfl, rfl, rfl⟩

end Sys2Proof.Machine
end
